-- ==== Sys2Proof/Word.lean ====
section
/-! DEFINITION. The widths of the values the spec treats as bits (00_scope R8, R10; 10_state R12; 30_encoding R48). -/

namespace Sys2Proof

/-- A memory byte, a general register's value, a timer's value, the field `nn`. -/
abbrev Byte := BitVec 8

/-- An instruction word, `I`, `pc`, a stack entry, a computed address. -/
abbrev Word := BitVec 16

/-- A 4-bit field: the opcode class, the field `n`, a key number 0 to 15. -/
abbrev Nibble := BitVec 4

/-- The name of a general register: the 4-bit field `x` or `y`, every value of which names one (R14, R51). -/
abbrev Reg := BitVec 4

/-- The 12-bit field `nnn`. -/
abbrev Addr12 := BitVec 12

end Sys2Proof
end

