-- ==== Sys2Proof/Syntax.lean ====
section
/-! DEFINITION. The instructions: one constructor per row of the opcode map (30_encoding R59), in the table's order, with every
field of the word the row leaves free, so that an instruction and its word determine each other. -/

namespace Sys2Proof

inductive Instr where
  /-- 00E0 -/
  | cls
  /-- 00EE -/
  | ret
  /-- 0nnn, any other word of class 0 -/
  | sys (nnn : Addr12)
  /-- 1nnn -/
  | jp (nnn : Addr12)
  /-- 2nnn -/
  | call (nnn : Addr12)
  /-- 3xnn -/
  | seImm (x : Reg) (nn : Byte)
  /-- 4xnn -/
  | sneImm (x : Reg) (nn : Byte)
  /-- 5xyn; the meaning ignores `n` (R54) -/
  | seReg (x y : Reg) (n : Nibble)
  /-- 6xnn -/
  | ldImm (x : Reg) (nn : Byte)
  /-- 7xnn -/
  | addImm (x : Reg) (nn : Byte)
  /-- 8xy0 -/
  | ldReg (x y : Reg)
  /-- 8xy1 -/
  | orReg (x y : Reg)
  /-- 8xy2 -/
  | andReg (x y : Reg)
  /-- 8xy3 -/
  | xorReg (x y : Reg)
  /-- 8xy4 -/
  | addReg (x y : Reg)
  /-- 8xy5 -/
  | sub (x y : Reg)
  /-- 8xy6 -/
  | shr (x y : Reg)
  /-- 8xy7 -/
  | subn (x y : Reg)
  /-- 8xyE -/
  | shl (x y : Reg)
  /-- 8xyn with `n` in no other row (R55) -/
  | unlisted8 (x y : Reg) (n : Nibble)
  /-- 9xyn; the meaning ignores `n` (R54) -/
  | sneReg (x y : Reg) (n : Nibble)
  /-- Annn -/
  | ldI (nnn : Addr12)
  /-- Bnnn -/
  | jpV0 (nnn : Addr12)
  /-- Cxnn -/
  | rnd (x : Reg) (nn : Byte)
  /-- Dxyn -/
  | drw (x y : Reg) (n : Nibble)
  /-- Ex9E -/
  | skp (x : Reg)
  /-- ExA1 -/
  | sknp (x : Reg)
  /-- Exnn with `nn` in no other row (R56) -/
  | unlistedE (x : Reg) (nn : Byte)
  /-- Fx07 -/
  | ldVxDT (x : Reg)
  /-- Fx0A -/
  | ldVxK (x : Reg)
  /-- Fx15 -/
  | ldDTVx (x : Reg)
  /-- Fx18 -/
  | ldSTVx (x : Reg)
  /-- Fx1E -/
  | addIVx (x : Reg)
  /-- Fx29 -/
  | ldFVx (x : Reg)
  /-- Fx33 -/
  | ldBVx (x : Reg)
  /-- Fx55 -/
  | ldIVx (x : Reg)
  /-- Fx65 -/
  | ldVxI (x : Reg)
  /-- Fxnn with `nn` in no other row (R57) -/
  | unlistedF (x : Reg) (nn : Byte)
  deriving DecidableEq, Repr

end Sys2Proof
end

