-- ==== Sys2Proof/WellFormed.lean ====
section
/-! DEFINITION. Which terms of `Instr` stand for a word: a row of priority 2 holds only the words no row of priority 1 of its
class takes (30_encoding R53, R55 to R57, R59). -/

namespace Sys2Proof

/-- The values of `n` that the rows 11 to 19 of class 8 list (R55). -/
def Instr.listed8 : List Nibble := [0x0, 0x1, 0x2, 0x3, 0x4, 0x5, 0x6, 0x7, 0xE]

/-- The values of `nn` that the rows 26 and 27 of class E list (R56). -/
def Instr.listedE : List Byte := [0x9E, 0xA1]

/-- The nine values of `nn` that the rows 29 to 37 of class F list (R57). -/
def Instr.listedF : List Byte := [0x07, 0x0A, 0x15, 0x18, 0x1E, 0x29, 0x33, 0x55, 0x65]

/-- The instruction is the one its own word stands for. -/
def Instr.wellFormed : Instr → Bool
  | .sys nnn => nnn != 0x0E0 && nnn != 0x0EE
  | .unlisted8 _ _ n => !Instr.listed8.contains n
  | .unlistedE _ nn => !Instr.listedE.contains nn
  | .unlistedF _ nn => !Instr.listedF.contains nn
  | .cls => true
  | .ret => true
  | .jp _ => true
  | .call _ => true
  | .seImm _ _ => true
  | .sneImm _ _ => true
  | .seReg _ _ _ => true
  | .ldImm _ _ => true
  | .addImm _ _ => true
  | .ldReg _ _ => true
  | .orReg _ _ => true
  | .andReg _ _ => true
  | .xorReg _ _ => true
  | .addReg _ _ => true
  | .sub _ _ => true
  | .shr _ _ => true
  | .subn _ _ => true
  | .shl _ _ => true
  | .sneReg _ _ _ => true
  | .ldI _ => true
  | .jpV0 _ => true
  | .rnd _ _ => true
  | .drw _ _ _ => true
  | .skp _ => true
  | .sknp _ => true
  | .ldVxDT _ => true
  | .ldVxK _ => true
  | .ldDTVx _ => true
  | .ldSTVx _ => true
  | .addIVx _ => true
  | .ldFVx _ => true
  | .ldBVx _ => true
  | .ldIVx _ => true
  | .ldVxI _ => true

end Sys2Proof
end

