-- ==== Sys2Proof/Decode.lean ====
section
/-! DEFINITION. Decoding (30_encoding R47 to R59): the fields of a word, the total decoder of R52, the decoder of bytes, which
rejects a byte sequence too short for a word by name, the encoder, and the opcode map of R59 as data. -/

namespace Sys2Proof

/-- `class` = w[15:12] (R48). -/
def opClass (w : Word) : Nibble := w.extractLsb' 12 4

/-- `x` = w[11:8] (R48). -/
def fieldX (w : Word) : Reg := w.extractLsb' 8 4

/-- `y` = w[7:4] (R48). -/
def fieldY (w : Word) : Reg := w.extractLsb' 4 4

/-- `n` = w[3:0] (R48). -/
def fieldN (w : Word) : Nibble := w.extractLsb' 0 4

/-- `nn` = w[7:0] (R48). -/
def fieldNN (w : Word) : Byte := w.extractLsb' 0 8

/-- `nnn` = w[11:0] (R48). -/
def fieldNNN (w : Word) : Addr12 := w.extractLsb' 0 12

/-- Class 0 is selected by the whole word (R53). -/
def decodeClass0 (w : Word) : Instr :=
  if w = 0x00E0 then .cls
  else if w = 0x00EE then .ret
  else .sys (fieldNNN w)

/-- Class 8 is selected by `n` (R55). -/
def decodeClass8 (w : Word) : Instr :=
  match (fieldN w).toNat with
  | 0x0 => .ldReg (fieldX w) (fieldY w)
  | 0x1 => .orReg (fieldX w) (fieldY w)
  | 0x2 => .andReg (fieldX w) (fieldY w)
  | 0x3 => .xorReg (fieldX w) (fieldY w)
  | 0x4 => .addReg (fieldX w) (fieldY w)
  | 0x5 => .sub (fieldX w) (fieldY w)
  | 0x6 => .shr (fieldX w) (fieldY w)
  | 0x7 => .subn (fieldX w) (fieldY w)
  | 0xE => .shl (fieldX w) (fieldY w)
  | _ => .unlisted8 (fieldX w) (fieldY w) (fieldN w)

/-- Class E is selected by `nn` (R56). -/
def decodeClassE (w : Word) : Instr :=
  match (fieldNN w).toNat with
  | 0x9E => .skp (fieldX w)
  | 0xA1 => .sknp (fieldX w)
  | _ => .unlistedE (fieldX w) (fieldNN w)

/-- Class F is selected by `nn` (R57). -/
def decodeClassF (w : Word) : Instr :=
  match (fieldNN w).toNat with
  | 0x07 => .ldVxDT (fieldX w)
  | 0x0A => .ldVxK (fieldX w)
  | 0x15 => .ldDTVx (fieldX w)
  | 0x18 => .ldSTVx (fieldX w)
  | 0x1E => .addIVx (fieldX w)
  | 0x29 => .ldFVx (fieldX w)
  | 0x33 => .ldBVx (fieldX w)
  | 0x55 => .ldIVx (fieldX w)
  | 0x65 => .ldVxI (fieldX w)
  | _ => .unlistedF (fieldX w) (fieldNN w)

/-- The total function from 16-bit words to instructions of R52. -/
def decodeWord (w : Word) : Instr :=
  match (opClass w).toNat with
  | 0x0 => decodeClass0 w
  | 0x1 => .jp (fieldNNN w)
  | 0x2 => .call (fieldNNN w)
  | 0x3 => .seImm (fieldX w) (fieldNN w)
  | 0x4 => .sneImm (fieldX w) (fieldNN w)
  | 0x5 => .seReg (fieldX w) (fieldY w) (fieldN w)
  | 0x6 => .ldImm (fieldX w) (fieldNN w)
  | 0x7 => .addImm (fieldX w) (fieldNN w)
  | 0x8 => decodeClass8 w
  | 0x9 => .sneReg (fieldX w) (fieldY w) (fieldN w)
  | 0xA => .ldI (fieldNNN w)
  | 0xB => .jpV0 (fieldNNN w)
  | 0xC => .rnd (fieldX w) (fieldNN w)
  | 0xD => .drw (fieldX w) (fieldY w) (fieldN w)
  | 0xE => decodeClassE w
  | _ => decodeClassF w

/-- Why a byte sequence holds no instruction: no other reason exists, since every word decodes (R52, R59). -/
inductive DecodeError where
  /-- fewer than the two bytes of a word (R47) -/
  | truncated
  deriving DecidableEq, Repr

/-- The word two consecutive bytes make, big-endian: the byte at the lower address supplies bits 15:8 (20_memory R30). -/
def wordOfBytes (hi lo : Byte) : Word := hi ++ lo

/-- The first instruction of a byte sequence and the bytes after it. -/
def decodeBytes : List Byte → Except DecodeError (Instr × List Byte)
  | hi :: lo :: rest => .ok (decodeWord (wordOfBytes hi lo), rest)
  | _ => .error .truncated

/-- The two bytes of a word as memory holds them, lowest address first (20_memory R30). -/
def bytesOfWord (w : Word) : List Byte := [w.extractLsb' 8 8, w.extractLsb' 0 8]

/-- The instruction whose bits are `w`, numbered as spec/opcode_table.json numbers them; an instruction is one 16-bit word, and
bits from `nbits` up are 0. -/
def decodeTableWord (nbits w : Nat) : Option Instr :=
  match decodeBytes (bytesOfWord (BitVec.ofNat 16 (w % 2 ^ nbits))) with
  | .ok (i, _) => some i
  | .error _ => none

/-! ### The encoder -/

/-- The formats `A`, `XNN`, `XYN` of R49 with the class `c`; `XY-` and `XYS` are `XYN`, `XS` is `XNN`. -/
def packA (c : Nibble) (nnn : Addr12) : Word := c ++ nnn

def packXNN (c : Nibble) (x : Reg) (nn : Byte) : Word := c ++ (x ++ nn : BitVec 12)

def packXYN (c : Nibble) (x y : Reg) (n : Nibble) : Word := c ++ (x ++ (y ++ n : BitVec 8) : BitVec 12)

/-- The word of an instruction (R59). -/
def encode : Instr → Word
  | .cls => 0x00E0
  | .ret => 0x00EE
  | .sys nnn => packA 0x0 nnn
  | .jp nnn => packA 0x1 nnn
  | .call nnn => packA 0x2 nnn
  | .seImm x nn => packXNN 0x3 x nn
  | .sneImm x nn => packXNN 0x4 x nn
  | .seReg x y n => packXYN 0x5 x y n
  | .ldImm x nn => packXNN 0x6 x nn
  | .addImm x nn => packXNN 0x7 x nn
  | .ldReg x y => packXYN 0x8 x y 0x0
  | .orReg x y => packXYN 0x8 x y 0x1
  | .andReg x y => packXYN 0x8 x y 0x2
  | .xorReg x y => packXYN 0x8 x y 0x3
  | .addReg x y => packXYN 0x8 x y 0x4
  | .sub x y => packXYN 0x8 x y 0x5
  | .shr x y => packXYN 0x8 x y 0x6
  | .subn x y => packXYN 0x8 x y 0x7
  | .shl x y => packXYN 0x8 x y 0xE
  | .unlisted8 x y n => packXYN 0x8 x y n
  | .sneReg x y n => packXYN 0x9 x y n
  | .ldI nnn => packA 0xA nnn
  | .jpV0 nnn => packA 0xB nnn
  | .rnd x nn => packXNN 0xC x nn
  | .drw x y n => packXYN 0xD x y n
  | .skp x => packXNN 0xE x 0x9E
  | .sknp x => packXNN 0xE x 0xA1
  | .unlistedE x nn => packXNN 0xE x nn
  | .ldVxDT x => packXNN 0xF x 0x07
  | .ldVxK x => packXNN 0xF x 0x0A
  | .ldDTVx x => packXNN 0xF x 0x15
  | .ldSTVx x => packXNN 0xF x 0x18
  | .addIVx x => packXNN 0xF x 0x1E
  | .ldFVx x => packXNN 0xF x 0x29
  | .ldBVx x => packXNN 0xF x 0x33
  | .ldIVx x => packXNN 0xF x 0x55
  | .ldVxI x => packXNN 0xF x 0x65
  | .unlistedF x nn => packXNN 0xF x nn

/-! ### The opcode map as data -/

/-- A row of R59: its number, and the words it takes are those with `w &&& mask = pattern`. -/
structure OpcodeRow where
  number : Nat
  pattern : Word
  mask : Word
  priority : Nat
  deriving DecidableEq, Repr

/-- `w & mask == match` (R59). -/
def rowSelects (w : Word) (r : OpcodeRow) : Bool := w &&& r.mask == r.pattern

/-- The row of an instruction (R59). -/
def rowOf : Instr → OpcodeRow
  | .cls => ⟨1, 0x00E0, 0xFFFF, 1⟩
  | .ret => ⟨2, 0x00EE, 0xFFFF, 1⟩
  | .sys _ => ⟨3, 0x0000, 0xF000, 2⟩
  | .jp _ => ⟨4, 0x1000, 0xF000, 1⟩
  | .call _ => ⟨5, 0x2000, 0xF000, 1⟩
  | .seImm _ _ => ⟨6, 0x3000, 0xF000, 1⟩
  | .sneImm _ _ => ⟨7, 0x4000, 0xF000, 1⟩
  | .seReg _ _ _ => ⟨8, 0x5000, 0xF000, 1⟩
  | .ldImm _ _ => ⟨9, 0x6000, 0xF000, 1⟩
  | .addImm _ _ => ⟨10, 0x7000, 0xF000, 1⟩
  | .ldReg _ _ => ⟨11, 0x8000, 0xF00F, 1⟩
  | .orReg _ _ => ⟨12, 0x8001, 0xF00F, 1⟩
  | .andReg _ _ => ⟨13, 0x8002, 0xF00F, 1⟩
  | .xorReg _ _ => ⟨14, 0x8003, 0xF00F, 1⟩
  | .addReg _ _ => ⟨15, 0x8004, 0xF00F, 1⟩
  | .sub _ _ => ⟨16, 0x8005, 0xF00F, 1⟩
  | .shr _ _ => ⟨17, 0x8006, 0xF00F, 1⟩
  | .subn _ _ => ⟨18, 0x8007, 0xF00F, 1⟩
  | .shl _ _ => ⟨19, 0x800E, 0xF00F, 1⟩
  | .unlisted8 _ _ _ => ⟨20, 0x8000, 0xF000, 2⟩
  | .sneReg _ _ _ => ⟨21, 0x9000, 0xF000, 1⟩
  | .ldI _ => ⟨22, 0xA000, 0xF000, 1⟩
  | .jpV0 _ => ⟨23, 0xB000, 0xF000, 1⟩
  | .rnd _ _ => ⟨24, 0xC000, 0xF000, 1⟩
  | .drw _ _ _ => ⟨25, 0xD000, 0xF000, 1⟩
  | .skp _ => ⟨26, 0xE09E, 0xF0FF, 1⟩
  | .sknp _ => ⟨27, 0xE0A1, 0xF0FF, 1⟩
  | .unlistedE _ _ => ⟨28, 0xE000, 0xF000, 2⟩
  | .ldVxDT _ => ⟨29, 0xF007, 0xF0FF, 1⟩
  | .ldVxK _ => ⟨30, 0xF00A, 0xF0FF, 1⟩
  | .ldDTVx _ => ⟨31, 0xF015, 0xF0FF, 1⟩
  | .ldSTVx _ => ⟨32, 0xF018, 0xF0FF, 1⟩
  | .addIVx _ => ⟨33, 0xF01E, 0xF0FF, 1⟩
  | .ldFVx _ => ⟨34, 0xF029, 0xF0FF, 1⟩
  | .ldBVx _ => ⟨35, 0xF033, 0xF0FF, 1⟩
  | .ldIVx _ => ⟨36, 0xF055, 0xF0FF, 1⟩
  | .ldVxI _ => ⟨37, 0xF065, 0xF0FF, 1⟩
  | .unlistedF _ _ => ⟨38, 0xF000, 0xF000, 2⟩

/-- One instruction of each constructor, in the table's order. -/
def representatives : List Instr :=
  [.cls, .ret, .sys 0, .jp 0, .call 0, .seImm 0 0, .sneImm 0 0, .seReg 0 0 0, .ldImm 0 0, .addImm 0 0, .ldReg 0 0,
    .orReg 0 0, .andReg 0 0, .xorReg 0 0, .addReg 0 0, .sub 0 0, .shr 0 0, .subn 0 0, .shl 0 0] ++
  [.unlisted8 0 0 8, .sneReg 0 0 0, .ldI 0, .jpV0 0, .rnd 0 0, .drw 0 0 0, .skp 0, .sknp 0, .unlistedE 0 0, .ldVxDT 0,
    .ldVxK 0, .ldDTVx 0, .ldSTVx 0, .addIVx 0, .ldFVx 0, .ldBVx 0, .ldIVx 0, .ldVxI 0, .unlistedF 0 0]

/-- The 38 rows of R59. -/
def opcodeMap : List OpcodeRow := representatives.map rowOf

/-- The row a word selects: the rows of priority 1 are tested before those of priority 2 (R59). -/
def selectRow (w : Word) : Option OpcodeRow :=
  ((opcodeMap.filter (·.priority == 1)) ++ (opcodeMap.filter (·.priority == 2))).find? (rowSelects w)

end Sys2Proof
end

