-- ==== Sys2Proof/Config.lean ====
section
/-! DEFINITION. The points the spec leaves open: its parameters and the free values. None has a body, so nothing can be proved
of a value of one and every theorem holds for all of them (00_scope R6, 40_cycle R70). -/

namespace Sys2Proof

/-- The two behaviours of parameter UNLISTED_SUBOP (R6, decision D5). -/
inductive UnlistedSubop where
  | fault
  | nop
  deriving DecidableEq, Repr, Inhabited

/-- The two readings of parameter SHIFT_ORDER (R6, R82, decision D7). -/
inductive ShiftOrder where
  | textOrder
  | snapshotFlagLast
  deriving DecidableEq, Repr, Inhabited

/-- The two agents that change Machine State, one atomic step at a time (60_exceptions R125). -/
inductive Agent where
  | cycle
  | tick
  deriving DecidableEq, Repr, Inhabited

/-- Parameter UNLISTED_SUBOP. Log 2. -/
opaque Config.unlistedSubop : UnlistedSubop

/-- Parameter SHIFT_ORDER. Log 3. -/
opaque Config.shiftOrder : ShiftOrder

/-- Parameter FONT: byte `d` of the 80 glyph bytes at 0x050 to 0x09F (20_memory R39, decision D10). Log 4. -/
opaque Config.font : Fin 80 → Byte

/-- The host's choice of the agent of a step that its schedule has not settled (R125, U14). Log 5. -/
opaque Config.schedule : Nat → Agent

/-- An answer of `random.byte()` (60_exceptions R135, U11). Log 6. -/
opaque Config.randomByte : Nat → Byte

/-- An answer of `input.is_down(key)` (60_exceptions R132, U13). Log 6. -/
opaque Config.keyDown : Nat → Nibble → Bool

/-- An answer of `input.current_key()`: 0 to 15 a key, 16 the sentinel NO_KEY (60_exceptions R133, U9, U10). Log 6. -/
opaque Config.currentKey : Nat → Fin 17

/-- Whether the tone is on after `audio.on()` is called with the tone already on, which the source does not say (R134, N20).
Log 8. -/
opaque Config.toneAfterSecondOn : Nat → Bool

end Sys2Proof
end

