-- ==== Sys2Proof/Machine/State.lean ====
section
/-! DEFINITION. The state: the tuple of 10_state R12 and, apart from it in `env`, the environment state of R13 with the model's
own bookkeeping. Plain data throughout. -/

namespace Sys2Proof.Machine

/-- The six causes of 60_exceptions R118. -/
inductive FaultCause where
  /-- fetch at pc > 0x0FFE (R65) -/
  | fetchOutOfRange
  /-- a data address of 0x1000 or above (R28) -/
  | memOutOfRange
  /-- a call with 16 entries live (R77) -/
  | stackOverflow
  /-- a return with no entry live (R74) -/
  | stackUnderflow
  /-- an unlisted word under UNLISTED_SUBOP = FAULT (R95, R106, R115) -/
  | undefinedOpcode
  /-- a key skip with V[x] > 15 (R103, R104) -/
  | keyOutOfRange
  deriving DecidableEq, Repr

/-- The fault record of R117. -/
structure FaultRecord where
  cause : FaultCause
  /-- A, the address of the instruction -/
  pc : Word
  /-- the fetched word; none for a fetch fault -/
  word : Option Word
  /-- the second argument of `raise` (R118) -/
  info : Word
  deriving DecidableEq, Repr

/-- A pixel of the 64 × 32 frame buffer: column and row (R131). -/
structure Pixel where
  col : Fin 64
  row : Fin 32
  deriving DecidableEq, Repr

/-- A call of a capability port with its answer (R129). -/
inductive PortCall where
  | displayClear
  | displayToggle (p : Pixel) (collided : Bool)
  | inputIsDown (key : Nibble) (down : Bool)
  | inputCurrentKey (answer : Fin 17)
  | audioOn
  | audioOff
  | randomByte (answer : Byte)
  /-- never made (R136); its six arguments have no meaning in the source (N23) and are not recorded -/
  | trace
  deriving DecidableEq, Repr

/-- The frame buffer's contents, row by row (R131 writes `fb[y][x]`). -/
abbrev FrameBuffer := Vector (Vector Bool 64) 32

/-- Every pixel off (R130). -/
def FrameBuffer.blank : FrameBuffer := Vector.replicate 32 (Vector.replicate 64 false)

/-- What lies outside Machine State. No rule of the core reads it but through a port's answer (R13, R24). -/
structure Env where
  /-- the frame buffer (R13, R131). Log 7 -/
  fb : FrameBuffer
  /-- the audio tone is on (R13, R134). Log 7 -/
  tone : Bool
  /-- MODEL: the port calls made so far, newest first. Log 9 -/
  calls : List PortCall
  /-- MODEL: how many free values have been drawn. Log 9 -/
  draws : Nat
  /-- MODEL: the host's choices of the next steps already made (SCHEDULE, R125). Log 5 -/
  schedule : List Agent
  deriving DecidableEq, Repr

/-- Memory: the bytes that differ from what reset leaves, by rising address; see `Memory.wf` in Ops. Log 11 -/
abbrev Memory := List Host.Cell

structure State where
  /-- V0 to VF (R14); VF is the flag register (R15) -/
  V : Vector Byte 16
  /-- the index register (R17) -/
  I : Word
  /-- the program counter (R18) -/
  pc : Word
  /-- the number of live stack entries, 0 to 16 (R20, R21) -/
  sp : Fin 17
  /-- the call stack (R20) -/
  stack : Vector Word 16
  /-- the delay timer (R22) -/
  DT : Byte
  /-- the sound timer (R22) -/
  ST : Byte
  /-- the 4096 bytes of memory (R25) -/
  mem : Memory
  /-- the halt flag and fault record (R12, R117) -/
  fault : Option FaultRecord
  /-- everything outside the tuple of R12 -/
  env : Env
  deriving DecidableEq, Repr

/-- Why a step has no next state. -/
inductive Fault where
  /-- Raised by `step` in a state whose `fault` is set: no step of either engine exists there (R64, R127, U16). Safe: the hardware
  does nothing there either. Log 1 -/
  | halted
  deriving DecidableEq, Repr

/-- Why an instruction has no meaning here. -/
inductive Refusal where
  /-- An arm of `exec` not written yet; safe. No arm answers it: every row has its meaning. -/
  | notModelled (mnemonic : String)
  deriving DecidableEq, Repr

/-- The state right after initialization (R23, R142), before a program is loaded: memory lists nothing, so it reads as
`Memory.resetByte` says. The model's own fields of `env` start empty (log 5, 9). -/
def State.reset : State where
  V := Vector.replicate 16 0
  I := 0
  pc := 0x200
  sp := 0
  stack := Vector.replicate 16 0
  DT := 0
  ST := 0
  mem := []
  fault := none
  env := { fb := FrameBuffer.blank, tone := false, calls := [], draws := 0, schedule := [] }

end Sys2Proof.Machine
end

