-- ==== Sys2Proof/Machine/Ops.lean ====
section
/-! DEFINITION. The named operations over registers, the call stack and memory, and taking a fault (10_state, 20_memory,
60_exceptions R117). -/

namespace Sys2Proof.Machine

/-! ### Memory -/

/-- What initialization leaves at an address (R23, R142): the font's bytes at 0x050 to 0x09F, zero elsewhere. -/
def Memory.resetByte (a : Nat) : Byte :=
  if h : 0x050 ≤ a ∧ a < 0x0A0 then Config.font ⟨a - 0x050, by omega⟩ else 0

/-- The byte at an address: the listed one, else the one reset left. Asked only of addresses below 0x1000 (R28). -/
def Memory.read : Memory → Nat → Byte
  | [], a => Memory.resetByte a
  | (b, v) :: m, a => if b = a then v else Memory.read m a

/-- A list without the entries of one address. -/
def Memory.erase (m : Memory) (a : Nat) : Memory := m.filter (fun c => c.1 != a)

/-- A cell put in its place by address. -/
def Memory.insert : Memory → Nat → Byte → Memory
  | [], a, v => [(a, v)]
  | (b, u) :: m, a, v => if a < b then (a, v) :: (b, u) :: m else (b, u) :: Memory.insert m a v

/-- `mem[a] <- v` (R28), keeping the canonical form. At 0x1000 or above there is no byte; no instruction writes there. -/
def Memory.write (m : Memory) (a : Nat) (v : Byte) : Memory :=
  if a < 0x1000 then
    if v = Memory.resetByte a then Memory.erase m a else Memory.insert (Memory.erase m a) a v
  else m

/-- The canonical form: rising addresses, each inside memory, none listed with the byte reset left there. Log 11 -/
abbrev Memory.wf (m : Memory) : Prop :=
  m.Pairwise (fun c d => c.1 < d.1) ∧ ∀ c ∈ m, c.1 < 0x1000 ∧ c.2 ≠ Memory.resetByte c.1

/-- `mem[a] <- v` for consecutive addresses: bytes `vs` from `a` up. -/
def Memory.writeFrom : Memory → Nat → List Byte → Memory
  | m, _, [] => m
  | m, a, v :: vs => Memory.writeFrom (Memory.write m a v) (a + 1) vs

/-- The addresses an instruction touches, in access order: base + k mod 2^16 for k below `count` (R27). -/
def accessAddrs (base : Word) (count : Nat) : List Word :=
  (List.range count).map (fun k => base + BitVec.ofNat 16 k)

/-- The first address in access order that is outside memory (R28, R29). -/
def firstBad (base : Word) (count : Nat) : Option Word :=
  (accessAddrs base count).find? (fun a => decide (0x1000 ≤ a.toNat))

/-! ### Registers -/

/-- `V[r]`. -/
def State.getV (s : State) (r : Reg) : Byte := s.V[r.toNat]'r.isLt

/-- `V[r] <- v`. -/
def State.setV (s : State) (r : Reg) (v : Byte) : State := { s with V := s.V.set r.toNat v r.isLt }

/-- `I <- v`. -/
def State.setI (s : State) (v : Word) : State := { s with I := v }

/-- `pc <- v`. -/
def State.setPc (s : State) (v : Word) : State := { s with pc := v }

/-- `DT <- v`. -/
def State.setDT (s : State) (v : Byte) : State := { s with DT := v }

/-- `ST <- v`. -/
def State.setST (s : State) (v : Byte) : State := { s with ST := v }

/-- The environment after a port call. -/
def State.setEnv (s : State) (e : Env) : State := { s with env := e }

/-- `MemRead(a, 1)` (R28). -/
def State.readMem (s : State) (a : Word) : Byte := Memory.read s.mem a.toNat

/-- `MemWrite(a, 1, v)` (R28). -/
def State.writeMem (s : State) (a : Word) (v : Byte) : State := { s with mem := Memory.write s.mem a.toNat v }

/-- The flag register (R15). -/
def flagReg : Reg := 0xF

/-! ### The program counter -/

/-- `pc <- A + 2`, made after the fetch and before the execute phase of every instruction (40_cycle R66). -/
def State.advance (s : State) : State := { s with pc := s.pc + 2 }

/-- A skip: `pc` up by another 2 when the condition holds (42_skips). -/
def State.skipIf (s : State) (c : Bool) : State := if c then { s with pc := s.pc + 2 } else s

/-- The rewind of `Fx0A` (46_keys R105). -/
def State.rewind (s : State) : State := { s with pc := s.pc - 2 }

/-- The word at pc, high byte first (R30, R65). Asked only for pc up to 0x0FFE. -/
def State.fetchWord (s : State) : Word := wordOfBytes (s.readMem s.pc) (s.readMem (s.pc + 1))

/-! ### The call stack -/

/-- A push: `stack[sp] <- v`, then sp up by 1; none when 16 entries are live (R20, R21). -/
def State.push? (s : State) (v : Word) : Option State :=
  if h : s.sp.val < 16 then
    some { s with stack := s.stack.set s.sp.val v h, sp := ⟨s.sp.val + 1, by omega⟩ }
  else none

/-- A pop: sp down by 1, then `stack[sp]`, which stays as it is; none when no entry is live (R20, R21). -/
def State.pop? (s : State) : Option (Word × State) :=
  if h : 0 < s.sp.val then
    some (s.stack[s.sp.val - 1]'(by omega), { s with sp := ⟨s.sp.val - 1, by omega⟩ })
  else none

/-! ### Taking a fault -/

/-- The code of a cause (R118). -/
def FaultCause.code : FaultCause → Nat
  | .fetchOutOfRange => 1
  | .memOutOfRange => 2
  | .stackOverflow => 3
  | .stackUnderflow => 4
  | .undefinedOpcode => 5
  | .keyOutOfRange => 6

/-- `raise Fault(cause, info)` from the state at the START of the step (pc = A): the record is set and nothing else changes
(R68, R117, R120). There is no return from a fault (R121). Log 1 -/
def State.raiseFault (s : State) (cause : FaultCause) (word : Option Word) (info : Word) : State :=
  { s with fault := some { cause := cause, pc := s.pc, word := word, info := info } }

/-- A fault of the execute phase of `i`, whose word is the one fetched (R117). Log 12 -/
def State.raiseIn (s : State) (i : Instr) (cause : FaultCause) (info : Word) : State :=
  s.raiseFault cause (some (encode i)) info

/-- An unlisted word (R95, R106, R115): a fault or nothing, by UNLISTED_SUBOP. Log 2 -/
def State.runUnlisted (s : State) (i : Instr) : State :=
  match Config.unlistedSubop with
  | .fault => s.raiseIn i .undefinedOpcode s.pc
  | .nop => s.advance

end Sys2Proof.Machine
end

