-- ==== Sys2Proof/Machine/Flags.lean ====
section
/-! DEFINITION. The flag values the ALU writes to VF, and the order of a shift's two writes (43_alu). -/

namespace Sys2Proof.Machine

/-- `(r < a) ? 1 : 0`: the 8-bit sum `r` is below an addend `a` exactly when the addition carried (R89). -/
def carryFlag (a r : Byte) : Byte := if r.toNat < a.toNat then 1 else 0

/-- `(r > a) ? 0 : 1`: the 8-bit difference `r` is above the minuend `a` exactly when the subtraction borrowed (R90, R92). -/
def noBorrowFlag (a r : Byte) : Byte := if a.toNat < r.toNat then 0 else 1

/-- Bit 0 of the source of a right shift (R91). -/
def shiftedOutRight (b : Byte) : Byte := b &&& 0x01

/-- Bit 7 of the source of a left shift (R93). -/
def shiftedOutLeft (b : Byte) : Byte := (b >>> 7) &&& 0x01

/-- The result of a logic or arithmetic instruction, then its flag: when x = 0xF, VF ends holding the flag (R82). -/
def State.setResultThenFlag (s : State) (x : Reg) (result flag : Byte) : State := (s.setV x result).setV flagReg flag

/-- The two writes of a shift of `V[y]` in the order SHIFT_ORDER gives (R82, R91, R93): `TEXT_ORDER` writes VF and then computes
the result from `V[y]` as it then stands, `SNAPSHOT_FLAG_LAST` reads `V[y]` once and writes VF last. Log 3 -/
def State.setShift (s : State) (order : ShiftOrder) (result flag : Byte → Byte) (x y : Reg) : State :=
  match order with
  | .textOrder =>
    let s1 := s.setV flagReg (flag (s.getV y))
    s1.setV x (result (s1.getV y))
  | .snapshotFlagLast => s.setResultThenFlag x (result (s.getV y)) (flag (s.getV y))

end Sys2Proof.Machine
end

