-- ==== Sys2Proof/Machine/Alu.lean ====
section
/-! DEFINITION. Register loads and the ALU (43_alu). -/

namespace Sys2Proof.Machine

/-- 6xnn (R83). -/
def execLdImm (x : Reg) (nn : Byte) (s : State) : Host.Outcome State Fault Refusal := .next (s.advance.setV x nn)

/-- 7xnn (R84): no flag. -/
def execAddImm (x : Reg) (nn : Byte) (s : State) : Host.Outcome State Fault Refusal :=
  .next (s.advance.setV x (s.getV x + nn))

/-- 8xy0 (R85). -/
def execLdReg (x y : Reg) (s : State) : Host.Outcome State Fault Refusal := .next (s.advance.setV x (s.getV y))

/-- 8xy1 (R86). -/
def execOrReg (x y : Reg) (s : State) : Host.Outcome State Fault Refusal :=
  .next (s.advance.setResultThenFlag x (s.getV x ||| s.getV y) 0)

/-- 8xy2 (R87). -/
def execAndReg (x y : Reg) (s : State) : Host.Outcome State Fault Refusal :=
  .next (s.advance.setResultThenFlag x (s.getV x &&& s.getV y) 0)

/-- 8xy3 (R88). -/
def execXorReg (x y : Reg) (s : State) : Host.Outcome State Fault Refusal :=
  .next (s.advance.setResultThenFlag x (s.getV x ^^^ s.getV y) 0)

/-- 8xy4 (R89). -/
def execAddReg (x y : Reg) (s : State) : Host.Outcome State Fault Refusal :=
  let a := s.getV x
  let r := a + s.getV y
  .next (s.advance.setResultThenFlag x r (carryFlag a r))

/-- 8xy5 (R90). -/
def execSub (x y : Reg) (s : State) : Host.Outcome State Fault Refusal :=
  let a := s.getV x
  let r := a - s.getV y
  .next (s.advance.setResultThenFlag x r (noBorrowFlag a r))

/-- 8xy6 (R91): the source is `V[y]`. -/
def execShr (x y : Reg) (s : State) : Host.Outcome State Fault Refusal :=
  .next (s.advance.setShift Config.shiftOrder (fun b => b >>> 1) shiftedOutRight x y)

/-- 8xy7 (R92). The flag compares with `V[y]` as it stands after `V[x]` is written, as the rule's third statement reads. -/
def execSubn (x y : Reg) (s : State) : Host.Outcome State Fault Refusal :=
  let r := s.getV y - s.getV x
  let s1 := s.advance.setV x r
  .next (s1.setV flagReg (noBorrowFlag (s1.getV y) r))

/-- 8xyE (R93): the source is `V[y]`. -/
def execShl (x y : Reg) (s : State) : Host.Outcome State Fault Refusal :=
  .next (s.advance.setShift Config.shiftOrder (fun b => b <<< 1) shiftedOutLeft x y)

/-- 8xyn, unlisted (R95). -/
def execUnlisted8 (x y : Reg) (n : Nibble) (s : State) : Host.Outcome State Fault Refusal :=
  .next (s.runUnlisted (.unlisted8 x y n))

end Sys2Proof.Machine
end

