-- ==== Sys2Proof/Machine/Operands.lean ====
section
/-! DEFINITION. The operand forms: immediates and computed addresses (30_encoding R50; 44, 46, 48). -/

namespace Sys2Proof.Machine

/-- `zext_16(nnn)` (R50). -/
def addrWord (nnn : Addr12) : Word := nnn.setWidth 16

/-- `zext_16(v)` of a byte (R97, R110). -/
def byteWord (v : Byte) : Word := v.setWidth 16

/-- The target of `Bnnn`: `nnn + V[0]` (R97). -/
def indexedTarget (nnn : Addr12) (v0 : Byte) : Word := addrWord nnn + byteWord v0

/-- The glyph address of the low nibble of `v`: `FONT_BASE + (v & 0x0F) * 5` (R111). -/
def glyphAddr (v : Byte) : Word := 0x050 + byteWord (v &&& 0x0F) * 5

/-- The decimal digits of a byte, hundreds first (R112). -/
def bcdDigits (v : Byte) : List Byte :=
  [BitVec.ofNat 8 (v.toNat / 100), BitVec.ofNat 8 (v.toNat / 10 % 10), BitVec.ofNat 8 (v.toNat % 10)]

/-- A key number as the 4-bit argument of `input.is_down`; asked only of `v` up to 15 (R103). -/
def keyOf (v : Byte) : Nibble := v.setWidth 4

/-- The sentinel NO_KEY = 0x10 (R105). -/
def noKey : Fin 17 := 16

/-- An answer of `input.current_key()` as a byte (R133). -/
def keyByte (k : Fin 17) : Byte := BitVec.ofNat 8 k.val

end Sys2Proof.Machine
end

