-- ==== Sys2Proof/Machine/Ports.lean ====
section
/-! DEFINITION. The capability ports (60_exceptions R129 to R136) and the host's choice of the next agent (R125), as operations
on the environment. A call is recorded in `calls`; an answer the contract leaves open is a free value drawn at `draws`. -/

namespace Sys2Proof.Machine

/-- A pixel's bit: `fb[y][x]` (R131). -/
def Env.pixel (e : Env) (p : Pixel) : Bool := (e.fb[p.row.val])[p.col.val]

/-- A call made. -/
def Env.record (e : Env) (c : PortCall) : Env := { e with calls := c :: e.calls }

/-- `display.clear()` (R130). -/
def Env.displayClear (e : Env) : Env := { e.record .displayClear with fb := FrameBuffer.blank }

/-- `display.toggle(x, y)`: the pixel flips; the answer is true exactly when it was on (R131). -/
def Env.displayToggle (e : Env) (p : Pixel) : Bool × Env :=
  (e.pixel p,
    { e.record (.displayToggle p (e.pixel p)) with
      fb := e.fb.set p.row.val ((e.fb[p.row.val]).set p.col.val (!e.pixel p)) })

/-- `input.is_down(key)` (R132): a free answer. Log 6 -/
def Env.isDown (e : Env) (key : Nibble) : Bool × Env :=
  (Config.keyDown e.draws key, { e.record (.inputIsDown key (Config.keyDown e.draws key)) with draws := e.draws + 1 })

/-- `input.current_key()` (R133): a free answer. Log 6 -/
def Env.askKey (e : Env) : Fin 17 × Env :=
  (Config.currentKey e.draws, { e.record (.inputCurrentKey (Config.currentKey e.draws)) with draws := e.draws + 1 })

/-- `audio.on()` (R134): the tone starts. Called with the tone already on, whether it stays on is not stated: a free value, drawn
at every call so that what is drawn later does not depend on the tone. Log 8 -/
def Env.audioOn (e : Env) : Env :=
  { e.record .audioOn with tone := !e.tone || Config.toneAfterSecondOn e.draws, draws := e.draws + 1 }

/-- `audio.off()` (R134). -/
def Env.audioOff (e : Env) : Env := { e.record .audioOff with tone := false }

/-- `random.byte()` (R135): a free answer. Log 6 -/
def Env.randomByte (e : Env) : Byte × Env :=
  (Config.randomByte e.draws, { e.record (.randomByte (Config.randomByte e.draws)) with draws := e.draws + 1 })

/-- The agent whose step the host invokes next: the head of its schedule, else a free choice (R125). Log 5 -/
def Env.nextAgent (e : Env) : Agent :=
  match e.schedule with
  | a :: _ => a
  | [] => Config.schedule e.draws

/-- The host has invoked a step: that choice is spent. Log 5 -/
def Env.spendTurn (e : Env) : Env :=
  match e.schedule with
  | _ :: rest => { e with schedule := rest }
  | [] => { e with draws := e.draws + 1 }

end Sys2Proof.Machine
end

