-- ==== Sys2Proof/Machine/ClassZero.lean ====
section
/-! DEFINITION. Class 0, jumps and calls (41_class0_flow). Every meaning takes the state at the start of the step, pc = A, and
makes the advance of R66 itself, so that a fault leaves that state (R68). Log 12 -/

namespace Sys2Proof.Machine

/-- 00E0 (R73). -/
def execCls (s : State) : Host.Outcome State Fault Refusal := .next (s.advance.setEnv s.env.displayClear)

/-- 00EE (R74). -/
def execRet (s : State) : Host.Outcome State Fault Refusal :=
  match s.advance.pop? with
  | none => .next (s.raiseIn .ret .stackUnderflow s.pc)
  | some (target, s1) => .next (s1.setPc target)

/-- 0nnn, any other word of the class: a no-op (R75). -/
def execSys (_nnn : Addr12) (s : State) : Host.Outcome State Fault Refusal := .next s.advance

/-- 1nnn (R76). -/
def execJp (nnn : Addr12) (s : State) : Host.Outcome State Fault Refusal := .next (s.advance.setPc (addrWord nnn))

/-- 2nnn (R77): the pushed value is the advanced pc. -/
def execCall (nnn : Addr12) (s : State) : Host.Outcome State Fault Refusal :=
  match s.advance.push? s.advance.pc with
  | none => .next (s.raiseIn (.call nnn) .stackOverflow s.pc)
  | some s1 => .next (s1.setPc (addrWord nnn))

end Sys2Proof.Machine
end

