-- ==== Sys2Proof/Machine/Draw.lean ====
section
/-! DEFINITION. Sprite draw (45_draw). -/

namespace Sys2Proof.Machine

/-- The sprite's first column, `V[x] mod 64` (R99). -/
def drawCol (s : State) (x : Reg) : Nat := (s.getV x).toNat % 64

/-- The sprite's first row, `V[y] mod 32` (R99). -/
def drawRow (s : State) (y : Reg) : Nat := (s.getV y).toNat % 32

/-- The number of rows drawn, the others being clipped: `min(n, 32 - y0)` (R101). -/
def drawCount (s : State) (y : Reg) (n : Nibble) : Nat := min n.toNat (32 - drawRow s y)

/-- A pixel of the screen, none when it lies beyond column 63 or row 31 (R99). -/
def pixelAt (col row : Nat) : Option Pixel :=
  if h : col < 64 ∧ row < 32 then some { col := ⟨col, h.1⟩, row := ⟨row, h.2⟩ } else none

/-- Bit `b` of a sprite byte counted from the left (R100). -/
def spriteBit (byte : Byte) (b : Nat) : Bool := byte.getLsbD (7 - b)

/-- The pixels row `k` of the sprite toggles, left to right: its set bits that are on the screen (R99 to R101). -/
def spriteRow (s : State) (x y : Reg) (k : Nat) : List Pixel :=
  (List.range 8).filterMap (fun b =>
    if spriteBit (s.readMem (s.I + BitVec.ofNat 16 k)) b then pixelAt (drawCol s x + b) (drawRow s y + k) else none)

/-- The pixels a draw toggles, in order: row by row (R101). -/
def spritePixels (s : State) (x y : Reg) (n : Nibble) : List Pixel :=
  (List.range (drawCount s y n)).flatMap (spriteRow s x y)

/-- `display.toggle` of each pixel in turn; the boolean says whether any answered true (R101, R102). -/
def Env.togglePixels : List Pixel → Env → Bool × Env
  | [], e => (false, e)
  | p :: ps, e =>
    let first := e.displayToggle p
    let rest := Env.togglePixels ps first.2
    (first.1 || rest.1, rest.2)

/-- Dxyn (R101): only drawn rows are read and checked, each before any effect. -/
def execDrw (x y : Reg) (n : Nibble) (s : State) : Host.Outcome State Fault Refusal :=
  match firstBad s.I (drawCount s y n) with
  | some a => .next (s.raiseIn (.drw x y n) .memOutOfRange a)
  | none =>
    let drawn := Env.togglePixels (spritePixels s x y n) s.env
    .next ((s.advance.setEnv drawn.2).setV flagReg (if drawn.1 then 1 else 0))

end Sys2Proof.Machine
end

