-- ==== Sys2Proof/Machine/IndexJumpRandom.lean ====
section
/-! DEFINITION. Index load, indexed jump, random (44_index_jump_random). -/

namespace Sys2Proof.Machine

/-- Annn (R96). -/
def execLdI (nnn : Addr12) (s : State) : Host.Outcome State Fault Refusal := .next (s.advance.setI (addrWord nnn))

/-- Bnnn (R97): the register is always V0. -/
def execJpV0 (nnn : Addr12) (s : State) : Host.Outcome State Fault Refusal :=
  .next (s.advance.setPc (indexedTarget nnn (s.getV 0)))

/-- Cxnn (R98): the port is called whatever the mask. -/
def execRnd (x : Reg) (nn : Byte) (s : State) : Host.Outcome State Fault Refusal :=
  let r := s.env.randomByte
  .next ((s.advance.setEnv r.2).setV x (r.1 &&& nn))

end Sys2Proof.Machine
end

