-- ==== Sys2Proof/Machine/IndexMemory.lean ====
section
/-! DEFINITION. Index arithmetic, font address, BCD and register block transfer (48_index_memory). -/

namespace Sys2Proof.Machine

/-- Fx1E (R110): no flag. -/
def execAddIVx (x : Reg) (s : State) : Host.Outcome State Fault Refusal :=
  .next (s.advance.setI (s.I + byteWord (s.getV x)))

/-- Fx29 (R111). -/
def execLdFVx (x : Reg) (s : State) : Host.Outcome State Fault Refusal :=
  .next (s.advance.setI (glyphAddr (s.getV x)))

/-- Bytes stored at `a`, `a + 1`, … (R31, R112). -/
def State.storeBytes : State → Word → List Byte → State
  | s, _, [] => s
  | s, a, v :: vs => State.storeBytes (s.writeMem a v) (a + 1) vs

/-- Fx33 (R112): I stays. -/
def execLdBVx (x : Reg) (s : State) : Host.Outcome State Fault Refusal :=
  match firstBad s.I 3 with
  | some a => .next (s.raiseIn (.ldBVx x) .memOutOfRange a)
  | none => .next (s.advance.storeBytes s.I (bcdDigits (s.getV x)))

/-- Registers 0 to `count - 1` stored, I advancing by 1 after each (R113). -/
def State.storeRegs (s : State) : Nat → State
  | 0 => s
  | count + 1 =>
    let s1 := State.storeRegs s count
    (s1.writeMem s1.I (s1.getV (BitVec.ofNat 4 count))).setI (s1.I + 1)

/-- Registers 0 to `count - 1` loaded, I advancing by 1 after each (R114). -/
def State.loadRegs (s : State) : Nat → State
  | 0 => s
  | count + 1 =>
    let s1 := State.loadRegs s count
    (s1.setV (BitVec.ofNat 4 count) (s1.readMem s1.I)).setI (s1.I + 1)

/-- Fx55 (R113). -/
def execLdIVx (x : Reg) (s : State) : Host.Outcome State Fault Refusal :=
  match firstBad s.I (x.toNat + 1) with
  | some a => .next (s.raiseIn (.ldIVx x) .memOutOfRange a)
  | none => .next (s.advance.storeRegs (x.toNat + 1))

/-- Fx65 (R114). -/
def execLdVxI (x : Reg) (s : State) : Host.Outcome State Fault Refusal :=
  match firstBad s.I (x.toNat + 1) with
  | some a => .next (s.raiseIn (.ldVxI x) .memOutOfRange a)
  | none => .next (s.advance.loadRegs (x.toNat + 1))

/-- Fxnn, unlisted (R115). -/
def execUnlistedF (x : Reg) (nn : Byte) (s : State) : Host.Outcome State Fault Refusal :=
  .next (s.runUnlisted (.unlistedF x nn))

end Sys2Proof.Machine
end

