-- ==== Sys2Proof/Machine/Keys.lean ====
section
/-! DEFINITION. Key skips and blocking key wait (46_keys). -/

namespace Sys2Proof.Machine

/-- The shared part of R103 and R104: a key number above 15 faults before the port is called; else the answer decides. -/
def State.keySkip (s : State) (i : Instr) (x : Reg) (wanted : Bool) : State :=
  if 0x0F < (s.getV x).toNat then s.raiseIn i .keyOutOfRange (byteWord (s.getV x))
  else
    let q := s.env.isDown (keyOf (s.getV x))
    (s.advance.setEnv q.2).skipIf (q.1 == wanted)

/-- Ex9E (R103). -/
def execSkp (x : Reg) (s : State) : Host.Outcome State Fault Refusal := .next (s.keySkip (.skp x) x true)

/-- ExA1 (R104). -/
def execSknp (x : Reg) (s : State) : Host.Outcome State Fault Refusal := .next (s.keySkip (.sknp x) x false)

/-- Exnn, unlisted (R106). -/
def execUnlistedE (x : Reg) (nn : Byte) (s : State) : Host.Outcome State Fault Refusal :=
  .next (s.runUnlisted (.unlistedE x nn))

/-- Fx0A (R105): both queries are port calls, the second one's answer free of the first's (decision D12). Log 6 -/
def execLdVxK (x : Reg) (s : State) : Host.Outcome State Fault Refusal :=
  let k1 := s.env.askKey
  let k2 := k1.2.askKey
  .next (if k1.1 = noKey then (s.advance.setEnv k1.2).rewind else (s.advance.setEnv k2.2).setV x (keyByte k2.1))

end Sys2Proof.Machine
end

