-- ==== Sys2Proof/Machine/Timers.lean ====
section
/-! DEFINITION. The timer instructions (47_timer_instr) and the timer countdown engine (60_exceptions R126). -/

namespace Sys2Proof.Machine

/-- Fx07 (R107). -/
def execLdVxDT (x : Reg) (s : State) : Host.Outcome State Fault Refusal := .next (s.advance.setV x s.DT)

/-- Fx15 (R108). -/
def execLdDTVx (x : Reg) (s : State) : Host.Outcome State Fault Refusal := .next (s.advance.setDT (s.getV x))

/-- Fx18 (R109): the tone starts from silence, when the prior value was 0. -/
def execLdSTVx (x : Reg) (s : State) : Host.Outcome State Fault Refusal :=
  let s1 := s.advance.setST (s.getV x)
  .next (if 0 < (s.getV x).toNat ∧ s.ST = 0 then s1.setEnv s1.env.audioOn else s1)

/-- A timer's countdown: it stops at 0 (R126). -/
def countDown (t : Byte) : Byte := if 0 < t.toNat then t - 1 else t

/-- One Timer Tick of a machine without a fault (R126). -/
def State.tick (s : State) : State :=
  let s1 := (s.setDT (countDown s.DT)).setST (countDown s.ST)
  if s1.ST = 0 then s1.setEnv s1.env.audioOff else s1

end Sys2Proof.Machine
end

