-- ==== Sys2Proof/Machine/Cycle.lean ====
section
/-! DEFINITION. One step of the Cycle Engine (40_cycle R63 to R71), the spending of the host's choice, and the host's own
operations on a machine: loading a program and re-initializing (70_reset_and_hazards). -/

namespace Sys2Proof.Machine

/-- Fetch, decode and execute of a machine without a fault (R65 to R71). -/
def State.cycle (s : State) : Host.Outcome State Fault Refusal :=
  if s.pc.toNat ≤ 0x0FFE then exec (decodeWord s.fetchWord) s
  else .next (s.raiseFault .fetchOutOfRange none s.pc)

/-- The machine after a step, the host's choice of that step being spent. Log 5 -/
def State.spendTurn (s : State) : State := s.setEnv s.env.spendTurn

/-- The same on a step's outcome. -/
def spendTurnAfter : Host.Outcome State Fault Refusal → Host.Outcome State Fault Refusal
  | .next s => .next s.spendTurn
  | .fault r => .fault r
  | .refused r => .refused r

/-- `load(P, L)` (R144): the image copied to 0x200 up, or refused when it is longer than 0x0E00 bytes. Log 13 -/
def State.loadProgram (s : State) (image : List Byte) : Option State :=
  if image.length ≤ 0x0E00 then some { s with mem := Memory.writeFrom s.mem 0x200 image } else none

/-- Re-initialization (R146): every component at its reset value, `fault` none; free values go on where they stood. Log 15 -/
def State.reinit (s : State) : State :=
  { State.reset with env := { State.reset.env with draws := s.env.draws, schedule := s.env.schedule } }

/-- `s` ready to run the word `w` at its next step: the host's next choice is the Cycle Engine, no fault is set, and pc is
where a word can be fetched. Log 13 -/
def State.readyToFetch (s : State) (w : Word) : State :=
  let pc : Word := if s.pc.toNat ≤ 0x0FFE then s.pc else 0x200
  let turns := match s.env.schedule with
    | .cycle :: _ => s.env.schedule
    | others => .cycle :: others
  { s with
    pc := pc
    mem := Memory.writeFrom s.mem pc.toNat (bytesOfWord w)
    fault := none
    env := { s.env with schedule := turns } }

end Sys2Proof.Machine
end

