-- ==== Sys2Proof/Machine/Step.lean ====
section
/-! DEFINITION. One step of the machine: the agent the host invokes takes its atomic step (60_exceptions R125). -/

namespace Sys2Proof.Machine

/-- A halted machine has no step (R64, R127); otherwise the Cycle Engine or the Timer Tick takes one, as the host chooses. -/
def step (s : State) : Host.Outcome State Fault Refusal :=
  match s.fault with
  | some _ => .fault .halted
  | none =>
    match s.env.nextAgent with
    | .cycle => spendTurnAfter s.cycle
    | .tick => .next s.tick.spendTurn

/-- `s` with an instruction, given as spec/opcode_table.json numbers its bits, where the next step fetches. Log 13 -/
def State.withFetchWord (s : State) (nbits w : Nat) : State := s.readyToFetch (BitVec.ofNat 16 (w % 2 ^ nbits))

end Sys2Proof.Machine
end

