-- ==== Sys2Proof/Safety.lean ====
section
/-! DEFINITION. The terms claims use: what an instruction touches and its frame, when it faults, what a sprite covers, the
invariants, and parked states. Written from the spec's tables, not from the meanings. -/

namespace Sys2Proof.Machine

/-! ### Frames -/

/-- What a step of an instruction may change; what is left out stays. -/
structure Touched where
  regs : List Reg := []
  index : Bool := false
  /-- pc ends elsewhere than at A + 2 -/
  pc : Bool := false
  stack : Bool := false
  delay : Bool := false
  sound : Bool := false
  /-- the addresses stored to -/
  bytes : List Nat := []
  display : Bool := false
  tone : Bool := false
  /-- a port is called -/
  calls : Bool := false
  deriving DecidableEq, Repr

/-- `t` is `s` but for what `w` names; `pc` is at A + 2 unless named, and no fault is taken. -/
def Frame (w : Touched) (s t : State) : Prop :=
  (∀ r, r ∉ w.regs → t.getV r = s.getV r) ∧
  (w.index = false → t.I = s.I) ∧
  (w.pc = false → t.pc = s.pc + 2) ∧
  (w.stack = false → t.sp = s.sp ∧ t.stack = s.stack) ∧
  (w.delay = false → t.DT = s.DT) ∧
  (w.sound = false → t.ST = s.ST) ∧
  (∀ a, a ∉ w.bytes → Memory.read t.mem a = Memory.read s.mem a) ∧
  t.fault = s.fault ∧
  (w.display = false → t.env.fb = s.env.fb) ∧
  (w.tone = false → t.env.tone = s.env.tone) ∧
  (w.calls = false → t.env.calls = s.env.calls ∧ t.env.draws = s.env.draws) ∧
  t.env.schedule = s.env.schedule

/-- The addresses of `count` consecutive data accesses from I, as memory keys (R26, R27). -/
def dataAddrs (s : State) (count : Nat) : List Nat := (accessAddrs s.I count).map (·.toNat)

/-- The registers V0 to Vx (R51). -/
def regsUpTo (x : Reg) : List Reg := (List.range (x.toNat + 1)).map (BitVec.ofNat 4)

/-- What each instruction may change when it takes no fault: the tables of R15, R17, R18, R20, R22, R26 and R129. -/
def touched (s : State) : Instr → Touched
  | .cls => { display := true, calls := true }
  | .ret => { pc := true, stack := true }
  | .sys _ => {}
  | .jp _ => { pc := true }
  | .call _ => { pc := true, stack := true }
  | .seImm _ _ => { pc := true }
  | .sneImm _ _ => { pc := true }
  | .seReg _ _ _ => { pc := true }
  | .ldImm x _ => { regs := [x] }
  | .addImm x _ => { regs := [x] }
  | .ldReg x _ => { regs := [x] }
  | .orReg x _ => { regs := [x, 0xF] }
  | .andReg x _ => { regs := [x, 0xF] }
  | .xorReg x _ => { regs := [x, 0xF] }
  | .addReg x _ => { regs := [x, 0xF] }
  | .sub x _ => { regs := [x, 0xF] }
  | .shr x _ => { regs := [x, 0xF] }
  | .subn x _ => { regs := [x, 0xF] }
  | .shl x _ => { regs := [x, 0xF] }
  | .unlisted8 _ _ _ => {}
  | .sneReg _ _ _ => { pc := true }
  | .ldI _ => { index := true }
  | .jpV0 _ => { pc := true }
  | .rnd x _ => { regs := [x], calls := true }
  | .drw _ _ _ => { regs := [0xF], display := true, calls := true }
  | .skp _ => { pc := true, calls := true }
  | .sknp _ => { pc := true, calls := true }
  | .unlistedE _ _ => {}
  | .ldVxDT x => { regs := [x] }
  | .ldVxK x => { regs := [x], pc := true, calls := true }
  | .ldDTVx _ => { delay := true }
  | .ldSTVx _ => { sound := true, tone := true, calls := true }
  | .addIVx _ => { index := true }
  | .ldFVx _ => { index := true }
  | .ldBVx _ => { bytes := dataAddrs s 3 }
  | .ldIVx x => { index := true, bytes := dataAddrs s (x.toNat + 1) }
  | .ldVxI x => { regs := regsUpTo x, index := true }
  | .unlistedF _ _ => {}

/-! ### Faults -/

/-- The fault of `count` consecutive byte accesses from I: the first address that is 0x1000 or above, if any (R28, R29). -/
def rangeFault (s : State) (count : Nat) : Option (FaultCause × Word) :=
  if 0 < count ∧ 0x1000 < s.I.toNat + count then
    some (.memOutOfRange, if s.I.toNat < 0x1000 then 0x1000 else s.I)
  else none

/-- The cause and `info` of the fault an instruction takes: the table of R118, whose last sentence is the last arm here. -/
def expectedFault (s : State) : Instr → Option (FaultCause × Word)
  | .ret => if s.sp.val = 0 then some (.stackUnderflow, s.pc) else none
  | .call _ => if s.sp.val = 16 then some (.stackOverflow, s.pc) else none
  | .unlisted8 _ _ _ => if Config.unlistedSubop = .fault then some (.undefinedOpcode, s.pc) else none
  | .unlistedE _ _ => if Config.unlistedSubop = .fault then some (.undefinedOpcode, s.pc) else none
  | .unlistedF _ _ => if Config.unlistedSubop = .fault then some (.undefinedOpcode, s.pc) else none
  | .skp x => if 15 < (s.getV x).toNat then some (.keyOutOfRange, byteWord (s.getV x)) else none
  | .sknp x => if 15 < (s.getV x).toNat then some (.keyOutOfRange, byteWord (s.getV x)) else none
  | .drw _ y n => rangeFault s (min n.toNat (32 - (s.getV y).toNat % 32))
  | .ldBVx _ => rangeFault s 3
  | .ldIVx x => rangeFault s (x.toNat + 1)
  | .ldVxI x => rangeFault s (x.toNat + 1)
  | _ => none

/-! ### Drawing -/

/-- The sprite at (V[x], V[y]) covers the pixel with a set bit: it lies in one of the 8 columns from `V[x] mod 64` and in one of
the `n` rows from `V[y] mod 32`, and the bit of that row's byte for that column, most significant leftmost, is 1 (R99, R100). -/
def spriteCovers (s : State) (x y : Reg) (n : Nibble) (p : Pixel) : Bool :=
  let x0 := (s.getV x).toNat % 64
  let y0 := (s.getV y).toNat % 32
  decide (x0 ≤ p.col.val ∧ p.col.val < x0 + 8 ∧ y0 ≤ p.row.val ∧ p.row.val < y0 + n.toNat) &&
    (Memory.read s.mem (s.I.toNat + (p.row.val - y0))).getLsbD (7 - (p.col.val - x0))

/-- Every row the draw reads lies inside memory (R29, R101). -/
abbrev drawInRange (s : State) (y : Reg) (n : Nibble) : Prop :=
  min n.toNat (32 - (s.getV y).toNat % 32) = 0 ∨
    s.I.toNat + min n.toNat (32 - (s.getV y).toNat % 32) ≤ 0x1000

/-! ### Invariants and parked states -/

/-- Memory is in its canonical form. -/
abbrev State.MemoryCanonical (s : State) : Prop := Memory.wf s.mem

/-- The bounds of R19: pc at most 0x10FE, every stack entry a return address of at most 0x1000. -/
abbrev State.PcBounded (s : State) : Prop :=
  s.pc.toNat ≤ 0x10FE ∧ ∀ k : Fin 16, (s.stack[k.val]).toNat ≤ 0x1000

/-- The trace port has not been called (R136). -/
abbrev State.TraceUnused (s : State) : Prop := PortCall.trace ∉ s.env.calls

/-- A parked state: no fault, and the word at pc is `1nnn` with `nnn = pc` (R141). -/
abbrev State.Parked (s : State) : Prop :=
  s.fault = none ∧ s.pc.toNat ≤ 0x0FFE ∧ s.fetchWord = packA 0x1 (s.pc.setWidth 12)

/-- A state with the tone set apart, to compare states that differ in nothing else (R24). -/
def State.withTone (s : State) (b : Bool) : State := { s with env := { s.env with tone := b } }

end Sys2Proof.Machine
end

