-- ==== Sys2Proof/Certificates/Slice0/Obligations.lean ====
section
/-! DEFINITION. The statements for the provers. Each docstring names the rule of the spec it formalises; where a clause rests on
the spec's own decision (92_eei_decisions) or on the model's choice, the docstring says so. Every statement about a free value or a
parameter of Config holds for each of its values. -/

open Sys2Proof Sys2Proof.Machine

/-! ### Encoding -/

/-- R48, R52, R59: the word of every well-formed instruction decodes to that instruction, with every operand. -/
def Obligations.EncodeThenDecode : Prop :=
  ∀ i : Instr, i.wellFormed = true → decodeWord (encode i) = i

/-- R52, R59: every word decodes to a well-formed instruction whose word it is, so no bit of a word is lost. -/
def Obligations.DecodeThenEncode : Prop :=
  ∀ w : Word, (decodeWord w).wellFormed = true ∧ encode (decodeWord w) = w

/-- R59: the decoder picks the row that the opcode map selects by mask, match and priority. -/
def Obligations.DecoderFollowsOpcodeMap : Prop :=
  ∀ w : Word, selectRow w = some (rowOf (decodeWord w))

/-- R52 to R57 on words the spec writes out. -/
def Obligations.SpelledWordsDecode : Prop :=
  decodeWord 0x00E0 = .cls ∧ decodeWord 0x00EE = .ret ∧ decodeWord 0x00E1 = .sys 0x0E1 ∧
    decodeWord 0x1228 = .jp 0x228 ∧ decodeWord 0x3215 = .seImm 2 0x15 ∧ decodeWord 0x5AB3 = .seReg 0xA 0xB 3 ∧
    decodeWord 0x8014 = .addReg 0 1 ∧ decodeWord 0x801E = .shl 0 1 ∧ decodeWord 0x8018 = .unlisted8 0 1 8 ∧
    decodeWord 0xB300 = .jpV0 0x300 ∧ decodeWord 0xC30F = .rnd 3 0x0F ∧ decodeWord 0xDF11 = .drw 0xF 1 1 ∧
    decodeWord 0xE5A1 = .sknp 5 ∧ decodeWord 0xF30A = .ldVxK 3 ∧ decodeWord 0xF255 = .ldIVx 2

/-! ### The step -/

/-- R30, R65 to R67, R71: a step of the Cycle Engine runs the instruction that the two bytes at pc decode to, high byte first. What
the model adds around `exec` is the spending of the host's choice, which touches no component of R12 and no port's state (log 5). -/
def Obligations.StepRunsDecodedInstruction : Prop :=
  ∀ (s : State) (i : Instr), s.fault = none → s.env.nextAgent = .cycle → s.pc.toNat ≤ 0x0FFE →
    decodeWord (Memory.read s.mem s.pc.toNat ++ Memory.read s.mem (s.pc.toNat + 1)) = i →
    step s = spendTurnAfter (exec i s) ∧
      ∀ t, exec i s = .next t →
        step s = .next { t with env := t.env.spendTurn } ∧ t.env.spendTurn.fb = t.env.fb ∧
          t.env.spendTurn.tone = t.env.tone ∧ t.env.spendTurn.calls = t.env.calls

/-- Decision D2 (with D1): a fetch above 0x0FFE sets the fault record, word none and info the address, and changes nothing else. -/
def Obligations.FetchPastEndFaults : Prop :=
  ∀ s : State, s.fault = none → s.env.nextAgent = .cycle → 0x0FFE < s.pc.toNat →
    step s = .next { s with
      fault := some { cause := .fetchOutOfRange, pc := s.pc, word := none, info := s.pc }
      env := s.env.spendTurn }

/-- Decisions D1, D19 (R64, R127): with a fault set neither engine has a step. That `step` answers `halted` there is log 1. -/
def Obligations.HaltedMachineHasNoStep : Prop :=
  ∀ (s : State) (r : FaultRecord), s.fault = some r → step s = .fault .halted

/-- R126: one Timer Tick lowers each timer that is not 0 by 1, calls `audio.off()` exactly when the sound timer is then 0, and
changes nothing else of R12. -/
def Obligations.TickCountsDownAndSilences : Prop :=
  ∀ s : State, s.fault = none → s.env.nextAgent = .tick →
    ∃ t, step s = .next t ∧ t.DT.toNat = s.DT.toNat - 1 ∧ t.ST.toNat = s.ST.toNat - 1 ∧
      (if t.ST = 0 then t.env.tone = false ∧ t.env.calls = .audioOff :: s.env.calls
        else t.env.tone = s.env.tone ∧ t.env.calls = s.env.calls) ∧
      t.V = s.V ∧ t.I = s.I ∧ t.pc = s.pc ∧ t.sp = s.sp ∧ t.stack = s.stack ∧
      (∀ a, Memory.read t.mem a = Memory.read s.mem a) ∧ t.fault = none ∧ t.env.fb = s.env.fb

/-- R127, its last sentence, which the spec derives from R126: after n ticks each timer holds its start value less n, never below
0; and the tone is off once the sound timer has reached 0. -/
def Obligations.TicksCountToZero : Prop :=
  ∀ (n : Nat) (s : State),
    (State.tick^[n] s).DT.toNat = s.DT.toNat - n ∧ (State.tick^[n] s).ST.toNat = s.ST.toNat - n ∧
      (0 < n ∧ s.ST.toNat ≤ n → (State.tick^[n] s).env.tone = false)

/-! ### Whole-machine rules -/

/-- Decisions D1 to D6 (R68, R117 to R120): every instruction answers a next state in every state; it takes a fault exactly under
the conditions of R118, and then the start state with the record set is the whole result. -/
def Obligations.FaultsExactlyWhenListed : Prop :=
  ∀ (i : Instr) (s : State), ∃ t, exec i s = .next t ∧
    match expectedFault s i with
    | some (cause, info) =>
      t = { s with fault := some { cause := cause, pc := s.pc, word := some (encode i), info := info } }
    | none => t.fault = s.fault

/-- R15, R17, R18, R20, R22, R26, R129 read as one table: an instruction that takes no fault completes, and leaves everything that
the tables do not list for it. -/
def Obligations.InstructionsTouchOnlyWhatTablesList : Prop :=
  ∀ (i : Instr) (s : State), expectedFault s i = none → ∃ t, exec i s = .next t ∧ Frame (touched s i) s t

/-- R24, R134: whether the tone is on reaches no component of R12. That it reaches nothing else of the environment either, the
counter of free values included, rests on the model's choice to draw a value at every `audio.on()` whatever the tone (log 8). -/
def Obligations.ToneNeverReachesCore : Prop :=
  ∀ (s t : State) (b : Bool), step s = .next t →
    ∃ u, step (s.withTone b) = .next u ∧ u.withTone false = t.withTone false

/-! ### Invariants -/

/-- Every step keeps memory in its canonical form, in which equal memories are equal data. The form is the model's (log 11). -/
def Obligations.CanonicalMemoryIsKept : Prop :=
  ∀ s t : State, s.MemoryCanonical → step s = .next t → t.MemoryCanonical

/-- R19: pc never passes 0x10FE and no stack entry passes 0x1000, so no pc arithmetic wraps. -/
def Obligations.PcAndStackBoundsAreKept : Prop :=
  ∀ s t : State, s.PcBounded → step s = .next t → t.PcBounded

/-- R136: no step calls the trace port. The record of calls is the model's own field (log 9). -/
def Obligations.TracePortIsNeverCalled : Prop :=
  ∀ s t : State, s.TraceUnused → step s = .next t → t.TraceUnused

/-- The state after reset meets the three invariants. The canonical form and the record of calls are the model's own (log 11, 9). -/
def Obligations.ResetMeetsInvariants : Prop :=
  State.reset.MemoryCanonical ∧ State.reset.PcBounded ∧ State.reset.TraceUnused

/-! ### Reset and the host's operations -/

/-- R23, R142: the reset value of every component, the font's bytes being parameter FONT (D10); I, the fault, the frame buffer and
the tone by decisions D9, D1 and D14. -/
def Obligations.ResetValues : Prop :=
  (∀ r, State.reset.getV r = 0) ∧ State.reset.I = 0 ∧ State.reset.pc = 0x200 ∧ State.reset.sp.val = 0 ∧
    (∀ k : Fin 16, State.reset.stack[k.val] = 0) ∧ State.reset.DT = 0 ∧ State.reset.ST = 0 ∧
    (∀ d : Fin 80, Memory.read State.reset.mem (0x050 + d.val) = Config.font d) ∧
    (∀ a, a < 0x050 ∨ 0x0A0 ≤ a → Memory.read State.reset.mem a = 0) ∧ State.reset.fault = none ∧
    (∀ p, State.reset.env.pixel p = false) ∧ State.reset.env.tone = false

/-- Decision D13 (R144): an image of at most 0x0E00 bytes is copied to 0x200 up and nothing else changes; a longer one is refused. -/
def Obligations.LoadProgramCopiesOrRefuses : Prop :=
  ∀ (s : State) (image : List Byte),
    (image.length ≤ 0x0E00 →
      ∃ t, s.loadProgram image = some t ∧
        (∀ (k : Nat) (h : k < image.length), Memory.read t.mem (0x200 + k) = image[k]) ∧
        (∀ a, a < 0x200 ∨ 0x200 + image.length ≤ a → Memory.read t.mem a = Memory.read s.mem a) ∧
        t = { s with mem := t.mem }) ∧
    (0x0E00 < image.length → s.loadProgram image = none)

/-- Decisions D21, D14 (R146): re-initialization brings every component of R12, the frame buffer and the tone to the reset value,
whatever the state, a faulted one included. -/
def Obligations.ReinitRestoresEveryComponent : Prop :=
  ∀ s : State, ∃ e : Env, s.reinit = { State.reset with env := e } ∧ (∀ p, e.pixel p = false) ∧ e.tone = false

/-! ### Class 0, jumps and calls -/

/-- R73, R130: CLS makes one call of `display.clear()`, after which every pixel is off. -/
def Obligations.ClsBlanksDisplay : Prop :=
  ∀ s : State, ∃ t, exec .cls s = .next t ∧ (∀ p, t.env.pixel p = false) ∧
    t.env.calls = .displayClear :: s.env.calls ∧ Frame { display := true, calls := true } s t

/-- R75: every other word of class 0 only advances pc. -/
def Obligations.SysDoesNothing : Prop :=
  ∀ (nnn : Addr12) (s : State), ∃ t, exec (.sys nnn) s = .next t ∧ Frame {} s t

/-- R76, R97: the jump target is nnn, or nnn + V0 as a sum that does not wrap. -/
def Obligations.JumpsSetPc : Prop :=
  ∀ (nnn : Addr12) (s : State),
    (∃ t, exec (.jp nnn) s = .next t ∧ t.pc.toNat = nnn.toNat ∧ Frame { pc := true } s t) ∧
    (∃ t, exec (.jpV0 nnn) s = .next t ∧ t.pc.toNat = nnn.toNat + (s.getV 0).toNat ∧ Frame { pc := true } s t)

/-- R77: with fewer than 16 entries live, CALL stores A + 2 at stack[sp], counts it and goes to nnn; with 16 it takes the fault of
decision D4. -/
def Obligations.CallPushesAdvancedPc : Prop :=
  ∀ (nnn : Addr12) (s : State),
    (∀ h : s.sp.val < 16, ∃ t, exec (.call nnn) s = .next t ∧ t.pc.toNat = nnn.toNat ∧ t.sp.val = s.sp.val + 1 ∧
      t.stack = s.stack.set s.sp.val (s.pc + 2) h ∧ Frame { pc := true, stack := true } s t) ∧
    (s.sp.val = 16 → exec (.call nnn) s =
      .next { s with fault := some { cause := .stackOverflow, pc := s.pc, word := some (encode (.call nnn)), info := s.pc } })

/-- R74: with an entry live, RET counts it out and goes to it, the entries staying as they are; with none it takes the fault of
decision D4. -/
def Obligations.RetPopsNewestEntry : Prop :=
  ∀ s : State,
    (∀ h : 0 < s.sp.val, ∃ t, exec .ret s = .next t ∧ t.pc = s.stack[s.sp.val - 1]'(by omega) ∧
      t.sp.val = s.sp.val - 1 ∧ t.stack = s.stack ∧ Frame { pc := true, stack := true } s t) ∧
    (s.sp.val = 0 → exec .ret s =
      .next { s with fault := some { cause := .stackUnderflow, pc := s.pc, word := some 0x00EE, info := s.pc } })

/-- R74, R147 (derived there): a RET that finds the stack as a CALL left it resumes at the instruction after the CALL. -/
def Obligations.RetResumesAfterCall : Prop :=
  ∀ (nnn : Addr12) (s t v : State), s.sp.val < 16 → exec (.call nnn) s = .next t → v.sp = t.sp → v.stack = t.stack →
    ∃ u, exec .ret v = .next u ∧ u.pc = s.pc + 2 ∧ u.sp = s.sp

/-! ### Skips -/

/-- R78 to R81: pc moves by an extra 2 exactly when the condition holds; `n` of 5xyn and 9xyn plays no part. -/
def Obligations.RegisterSkips : Prop :=
  ∀ (x y : Reg) (n : Nibble) (nn : Byte) (s : State),
    (∃ t, exec (.seImm x nn) s = .next t ∧ t.pc = (if s.getV x = nn then s.pc + 4 else s.pc + 2) ∧
      Frame { pc := true } s t) ∧
    (∃ t, exec (.sneImm x nn) s = .next t ∧ t.pc = (if s.getV x ≠ nn then s.pc + 4 else s.pc + 2) ∧
      Frame { pc := true } s t) ∧
    (∃ t, exec (.seReg x y n) s = .next t ∧ t.pc = (if s.getV x = s.getV y then s.pc + 4 else s.pc + 2) ∧
      Frame { pc := true } s t) ∧
    (∃ t, exec (.sneReg x y n) s = .next t ∧ t.pc = (if s.getV x ≠ s.getV y then s.pc + 4 else s.pc + 2) ∧
      Frame { pc := true } s t)

/-! ### Loads and the ALU -/

/-- R83, R84, R85: load immediate, add immediate modulo 256 with no flag, copy; x = 0xF is a destination like any other. -/
def Obligations.LoadsAndAddImmediate : Prop :=
  ∀ (x y : Reg) (nn : Byte) (s : State),
    (∃ t, exec (.ldImm x nn) s = .next t ∧ t.getV x = nn ∧ Frame { regs := [x] } s t) ∧
    (∃ t, exec (.addImm x nn) s = .next t ∧ (t.getV x).toNat = ((s.getV x).toNat + nn.toNat) % 256 ∧
      Frame { regs := [x] } s t) ∧
    (∃ t, exec (.ldReg x y) s = .next t ∧ t.getV x = s.getV y ∧ Frame { regs := [x] } s t)

/-- R86, R87, R88: the bitwise result goes to V[x] and then VF is cleared, also when x = 0xF. -/
def Obligations.LogicClearsFlag : Prop :=
  ∀ (x y : Reg) (s : State),
    (∃ t, exec (.orReg x y) s = .next t ∧ t.getV 0xF = 0 ∧ (x ≠ 0xF → t.getV x = s.getV x ||| s.getV y) ∧
      Frame { regs := [x, 0xF] } s t) ∧
    (∃ t, exec (.andReg x y) s = .next t ∧ t.getV 0xF = 0 ∧ (x ≠ 0xF → t.getV x = s.getV x &&& s.getV y) ∧
      Frame { regs := [x, 0xF] } s t) ∧
    (∃ t, exec (.xorReg x y) s = .next t ∧ t.getV 0xF = 0 ∧ (x ≠ 0xF → t.getV x = s.getV x ^^^ s.getV y) ∧
      Frame { regs := [x, 0xF] } s t)

/-- R89: the sum modulo 256, and VF = 1 exactly when the exact sum is 256 or more. That VF holds the carry and not the sum when
x = 0xF is the spec's reading of the order (R69, decision D7). -/
def Obligations.AddReportsCarry : Prop :=
  ∀ (x y : Reg) (s : State), ∃ t, exec (.addReg x y) s = .next t ∧
    t.getV 0xF = (if 256 ≤ (s.getV x).toNat + (s.getV y).toNat then 1 else 0) ∧
    (x ≠ 0xF → (t.getV x).toNat = ((s.getV x).toNat + (s.getV y).toNat) % 256) ∧
    Frame { regs := [x, 0xF] } s t

/-- R90, R92: the difference modulo 256, and VF = 1 exactly when nothing was borrowed. That VF holds the flag when x = 0xF is the
spec's reading of the order (R69, decision D7). -/
def Obligations.SubtractReportsNoBorrow : Prop :=
  ∀ (x y : Reg) (s : State),
    (∃ t, exec (.sub x y) s = .next t ∧
      t.getV 0xF = (if (s.getV y).toNat ≤ (s.getV x).toNat then 1 else 0) ∧
      (x ≠ 0xF → (t.getV x).toNat = ((s.getV x).toNat + 256 - (s.getV y).toNat) % 256) ∧
      Frame { regs := [x, 0xF] } s t) ∧
    (∃ t, exec (.subn x y) s = .next t ∧
      t.getV 0xF = (if (s.getV x).toNat ≤ (s.getV y).toNat then 1 else 0) ∧
      (x ≠ 0xF → (t.getV x).toNat = ((s.getV y).toNat + 256 - (s.getV x).toNat) % 256) ∧
      Frame { regs := [x, 0xF] } s t)

/-- R91, R93 with R82: the source is V[y], one bit position. When x or y is 0xF the result follows parameter SHIFT_ORDER (decision
D7), for either of its values; otherwise it does not depend on it. -/
def Obligations.ShiftsFollowShiftOrder : Prop :=
  ∀ (x y : Reg) (s : State),
    (∃ t, exec (.shr x y) s = .next t ∧ Frame { regs := [x, 0xF] } s t ∧
      (x ≠ 0xF ∧ y ≠ 0xF →
        (t.getV x).toNat = (s.getV y).toNat / 2 ∧ (t.getV 0xF).toNat = (s.getV y).toNat % 2) ∧
      (x = 0xF ∧ y ≠ 0xF → (t.getV 0xF).toNat =
        match Config.shiftOrder with | .textOrder => (s.getV y).toNat / 2 | .snapshotFlagLast => (s.getV y).toNat % 2) ∧
      (x ≠ 0xF ∧ y = 0xF → (t.getV 0xF).toNat = (s.getV y).toNat % 2 ∧ (t.getV x).toNat =
        match Config.shiftOrder with | .textOrder => 0 | .snapshotFlagLast => (s.getV y).toNat / 2) ∧
      (x = 0xF ∧ y = 0xF → (t.getV 0xF).toNat =
        match Config.shiftOrder with | .textOrder => 0 | .snapshotFlagLast => (s.getV y).toNat % 2)) ∧
    (∃ t, exec (.shl x y) s = .next t ∧ Frame { regs := [x, 0xF] } s t ∧
      (x ≠ 0xF ∧ y ≠ 0xF →
        (t.getV x).toNat = (s.getV y).toNat * 2 % 256 ∧ (t.getV 0xF).toNat = (s.getV y).toNat / 128) ∧
      (x = 0xF ∧ y ≠ 0xF → (t.getV 0xF).toNat =
        match Config.shiftOrder with
        | .textOrder => (s.getV y).toNat * 2 % 256 | .snapshotFlagLast => (s.getV y).toNat / 128) ∧
      (x ≠ 0xF ∧ y = 0xF → (t.getV 0xF).toNat = (s.getV y).toNat / 128 ∧ (t.getV x).toNat =
        match Config.shiftOrder with
        | .textOrder => (s.getV y).toNat / 128 * 2 | .snapshotFlagLast => (s.getV y).toNat * 2 % 256) ∧
      (x = 0xF ∧ y = 0xF → (t.getV 0xF).toNat =
        match Config.shiftOrder with
        | .textOrder => (s.getV y).toNat / 128 * 2 | .snapshotFlagLast => (s.getV y).toNat / 128))

/-- Decision D5 (R95, R106, R115): an unlisted word takes the fault UNDEFINED_OPCODE or does nothing, as parameter UNLISTED_SUBOP
says, for either of its values. -/
def Obligations.UnlistedWordsFollowParameter : Prop :=
  ∀ (i : Instr) (s : State),
    ((∃ x y n, i = .unlisted8 x y n) ∨ (∃ x nn, i = .unlistedE x nn) ∨ (∃ x nn, i = .unlistedF x nn)) →
    exec i s = .next (match Config.unlistedSubop with
      | .fault => { s with fault := some { cause := .undefinedOpcode, pc := s.pc, word := some (encode i), info := s.pc } }
      | .nop => { s with pc := s.pc + 2 })

/-! ### Index and random -/

/-- R96, R110, R111: I becomes nnn, I + V[x] modulo 65536, or the address 0x050 + 5 * (V[x] mod 16) of a glyph; no flag. -/
def Obligations.IndexIsLoadedAndAdded : Prop :=
  ∀ (x : Reg) (nnn : Addr12) (s : State),
    (∃ t, exec (.ldI nnn) s = .next t ∧ t.I.toNat = nnn.toNat ∧ Frame { index := true } s t) ∧
    (∃ t, exec (.addIVx x) s = .next t ∧ t.I.toNat = (s.I.toNat + (s.getV x).toNat) % 65536 ∧
      Frame { index := true } s t) ∧
    (∃ t, exec (.ldFVx x) s = .next t ∧ t.I.toNat = 0x050 + (s.getV x).toNat % 16 * 5 ∧ Frame { index := true } s t)

/-- R98: one call of `random.byte()`, whatever the mask, and V[x] is its answer masked. The answer is a free value (log 6). -/
def Obligations.RndMasksPortAnswer : Prop :=
  ∀ (x : Reg) (nn : Byte) (s : State), ∃ (t : State) (r : Byte), exec (.rnd x nn) s = .next t ∧
    t.env.calls = .randomByte r :: s.env.calls ∧ t.getV x = r &&& nn ∧ Frame { regs := [x], calls := true } s t

/-! ### Draw -/

/-- R99, R101, R131; the sprite's bytes and their bit order by decision D11: a draw whose rows lie inside memory flips exactly the
pixels the sprite covers, and VF says whether one of them was on. -/
def Obligations.DrwFlipsSpritePixels : Prop :=
  ∀ (x y : Reg) (n : Nibble) (s : State), drawInRange s y n →
    ∃ t, exec (.drw x y n) s = .next t ∧
      (∀ p, t.env.pixel p = (s.env.pixel p ^^ spriteCovers s x y n p)) ∧
      ((∃ p, spriteCovers s x y n p = true ∧ s.env.pixel p = true) → t.getV 0xF = 1) ∧
      ((∀ p, spriteCovers s x y n p = true → s.env.pixel p = false) → t.getV 0xF = 0) ∧
      Frame { regs := [0xF], display := true, calls := true } s t

/-- Decision D11 (R101): the toggles run row by row, left to right, one for each pixel the sprite covers, each answering whether
its pixel was on. -/
def Obligations.DrwTogglesInOrder : Prop :=
  ∀ (x y : Reg) (n : Nibble) (s : State), drawInRange s y n →
    ∃ (t : State) (ps : List Pixel), exec (.drw x y n) s = .next t ∧
      ps.Pairwise (fun p q => p.row < q.row ∨ (p.row = q.row ∧ p.col < q.col)) ∧
      (∀ p, p ∈ ps ↔ spriteCovers s x y n p = true) ∧
      t.env.calls = (ps.map (fun p => PortCall.displayToggle p (s.env.pixel p))).reverse ++ s.env.calls

/-- R101, its example, for every sprite: the same draw made twice gives the display back, and the second reports a collision when
it covers a pixel that was off at first. Coordinates are not held in VF, which the first draw writes. -/
def Obligations.DrwTwiceRestoresDisplay : Prop :=
  ∀ (x y : Reg) (n : Nibble) (s t : State), x ≠ 0xF → y ≠ 0xF → drawInRange s y n → exec (.drw x y n) s = .next t →
    ∃ u, exec (.drw x y n) t = .next u ∧ (∀ p, u.env.pixel p = s.env.pixel p) ∧
      ((∃ p, spriteCovers s x y n p = true ∧ s.env.pixel p = false) → u.getV 0xF = 1)

/-! ### Keys -/

/-- R103, R104, R132: with V[x] at most 15 the port is asked once whether that key is down, and SKP and SKNP skip on opposite
answers. The answer is a free value (log 6). -/
def Obligations.KeySkipsFollowPortAnswer : Prop :=
  ∀ (x : Reg) (s : State), (s.getV x).toNat ≤ 15 →
    ∃ (key : Nibble) (down : Bool), key.toNat = (s.getV x).toNat ∧
      (∃ t, exec (.skp x) s = .next t ∧ t.env.calls = .inputIsDown key down :: s.env.calls ∧
        t.pc = (if down then s.pc + 4 else s.pc + 2) ∧ Frame { pc := true, calls := true } s t) ∧
      (∃ t, exec (.sknp x) s = .next t ∧ t.env.calls = .inputIsDown key down :: s.env.calls ∧
        t.pc = (if down then s.pc + 2 else s.pc + 4) ∧ Frame { pc := true, calls := true } s t)

/-- R105: with no key pressed pc is back at A and nothing but the one call is left; with a key pressed the port is asked again and
V[x] is the second answer, which by decision D12 need not be the first. The answers are free values (log 6). -/
def Obligations.KeyWaitRewindsOrReads : Prop :=
  ∀ (x : Reg) (s : State), ∃ (t : State) (k1 : Fin 17), exec (.ldVxK x) s = .next t ∧
    Frame { regs := [x], pc := true, calls := true } s t ∧
    if k1 = 16 then
      t.pc = s.pc ∧ t.getV x = s.getV x ∧ t.env.calls = .inputCurrentKey k1 :: s.env.calls
    else
      ∃ k2 : Fin 17, t.pc = s.pc + 2 ∧ (t.getV x).toNat = k2.val ∧
        t.env.calls = .inputCurrentKey k2 :: .inputCurrentKey k1 :: s.env.calls

/-! ### Timers -/

/-- R107, R108, R109: reading DT, writing DT, and writing ST, which calls `audio.on()` exactly when a value above 0 replaces 0; the
tone then goes on from silence (R134). -/
def Obligations.TimerInstructions : Prop :=
  ∀ (x : Reg) (s : State),
    (∃ t, exec (.ldVxDT x) s = .next t ∧ t.getV x = s.DT ∧ Frame { regs := [x] } s t) ∧
    (∃ t, exec (.ldDTVx x) s = .next t ∧ t.DT = s.getV x ∧ Frame { delay := true } s t) ∧
    (∃ t, exec (.ldSTVx x) s = .next t ∧ t.ST = s.getV x ∧ Frame { sound := true, tone := true, calls := true } s t ∧
      if s.getV x ≠ 0 ∧ s.ST = 0 then
        t.env.calls = .audioOn :: s.env.calls ∧ (s.env.tone = false → t.env.tone = true)
      else t.env.calls = s.env.calls ∧ t.env.tone = s.env.tone)

/-! ### BCD and block transfer -/

/-- R112 (a form inside memory; the others fault, D3): the decimal digits of V[x] go to I, I + 1 and I + 2, and I stays. -/
def Obligations.BcdStoresDigits : Prop :=
  ∀ (x : Reg) (s : State), s.I.toNat + 3 ≤ 0x1000 →
    ∃ t, exec (.ldBVx x) s = .next t ∧
      (Memory.read t.mem s.I.toNat).toNat = (s.getV x).toNat / 100 ∧
      (Memory.read t.mem (s.I.toNat + 1)).toNat = (s.getV x).toNat / 10 % 10 ∧
      (Memory.read t.mem (s.I.toNat + 2)).toNat = (s.getV x).toNat % 10 ∧
      Frame { bytes := dataAddrs s 3 } s t

/-- R113 (a form inside memory; the others fault, D3): V0 to Vx go to I, I + 1, …, and I ends x + 1 further. -/
def Obligations.StoreBlockWritesRegisters : Prop :=
  ∀ (x : Reg) (s : State), s.I.toNat + x.toNat + 1 ≤ 0x1000 →
    ∃ t, exec (.ldIVx x) s = .next t ∧
      (∀ r : Reg, r.toNat ≤ x.toNat → Memory.read t.mem (s.I.toNat + r.toNat) = s.getV r) ∧
      t.I.toNat = s.I.toNat + x.toNat + 1 ∧
      Frame { index := true, bytes := dataAddrs s (x.toNat + 1) } s t

/-- R114 (a form inside memory; the others fault, D3): V0 to Vx come from I, I + 1, …, and I ends x + 1 further. -/
def Obligations.LoadBlockReadsRegisters : Prop :=
  ∀ (x : Reg) (s : State), s.I.toNat + x.toNat + 1 ≤ 0x1000 →
    ∃ t, exec (.ldVxI x) s = .next t ∧
      (∀ r : Reg, r.toNat ≤ x.toNat → t.getV r = Memory.read s.mem (s.I.toNat + r.toNat)) ∧
      t.I.toNat = s.I.toNat + x.toNat + 1 ∧
      Frame { regs := regsUpTo x, index := true } s t

/-- R113, R114 together, the source's round trip (95_test_vectors L1-7): what was stored from I is loaded back from I by any state
that holds that memory, whatever its registers. -/
def Obligations.StoreThenLoadRoundTrip : Prop :=
  ∀ (x : Reg) (s t v : State), s.I.toNat + x.toNat + 1 ≤ 0x1000 → exec (.ldIVx x) s = .next t →
    v.mem = t.mem → v.I = s.I →
    ∃ u, exec (.ldVxI x) v = .next u ∧ (∀ r : Reg, r.toNat ≤ x.toNat → u.getV r = s.getV r) ∧ u.I = t.I

/-- R45, R148 (the forms inside memory; the others fault, D3): every word Fx55 or Fx33 stored is what the next fetch of its
address reads, with no step between. -/
def Obligations.StoreIsSeenByNextFetch : Prop :=
  ∀ (x : Reg) (s t : State),
    (s.I.toNat + x.toNat + 1 ≤ 0x1000 → exec (.ldIVx x) s = .next t →
      ∀ r : Reg, r.toNat < x.toNat →
        ({ t with pc := s.I + r.setWidth 16 } : State).fetchWord = s.getV r ++ s.getV (r + 1)) ∧
    (s.I.toNat + 3 ≤ 0x1000 → exec (.ldBVx x) s = .next t →
      ({ t with pc := s.I } : State).fetchWord.toNat =
          (s.getV x).toNat / 100 * 256 + (s.getV x).toNat / 10 % 10 ∧
        ({ t with pc := s.I + 1 } : State).fetchWord.toNat =
          (s.getV x).toNat / 10 % 10 * 256 + (s.getV x).toNat % 10)

/-! ### Parked states -/

/-- Decision D18 (R141): a cycle step of a parked machine leaves every component of R12, and a tick leaves it parked with only the
timers counted down. -/
def Obligations.ParkedStaysParked : Prop :=
  ∀ s : State, s.Parked →
    (s.env.nextAgent = .cycle → step s = .next { s with env := s.env.spendTurn }) ∧
    (s.env.nextAgent = .tick → ∃ t, step s = .next t ∧ t.Parked ∧ t = { s with DT := t.DT, ST := t.ST, env := t.env })
end

