-- ==== Sys2Proof/Laws/Memory.lean ====
section
/-! SUPPORT. The laws of memory: what a read gives after a write, with no premise on the list's form, and that every memory
operation keeps the canonical form. -/

namespace Sys2Proof.Machine

/-- Erasing an address makes it read as reset left it and leaves every other address. -/
theorem Memory.read_erase (m : Memory) (a b : Nat) :
    Memory.read (Memory.erase m a) b = if b = a then Memory.resetByte a else Memory.read m b := by
  induction m with
  | nil => simp +contextual [Memory.erase, Memory.read]
  | cons c m ih =>
    obtain ⟨d, v⟩ := c
    simp only [Memory.erase, Memory.read] at ih ⊢
    by_cases hd : d = a
    · subst hd
      simp only [bne_self_eq_false, Bool.false_eq_true, not_false_eq_true, List.filter_cons_of_neg, ih]
      grind
    · have : (d != a) = true := by simpa using hd
      simp only [this, List.filter_cons_of_pos, Memory.read, ih]
      grind

/-- An inserted cell is read at its address where the list did not hold that address. -/
theorem Memory.read_insert (m : Memory) (a b : Nat) (v : Byte) (h : ∀ c ∈ m, c.1 ≠ a) :
    Memory.read (Memory.insert m a v) b = if b = a then v else Memory.read m b := by
  induction m with
  | nil => simp only [Memory.insert, Memory.read]; grind
  | cons c m ih =>
    obtain ⟨d, u⟩ := c
    have hd : d ≠ a := h (d, u) (by simp)
    simp only [Memory.insert]
    split
    · simp only [Memory.read]; grind
    · simp only [Memory.read, ih (fun c hc => h c (by simp [hc]))]; grind

theorem Memory.erase_ne (m : Memory) (a : Nat) : ∀ c ∈ Memory.erase m a, c.1 ≠ a := by
  simp [Memory.erase]

/-- A read after a write: the value written at its address, what was there elsewhere (R36). -/
theorem Memory.read_write (m : Memory) (a b : Nat) (v : Byte) :
    Memory.read (Memory.write m a v) b = if b = a ∧ a < 0x1000 then v else Memory.read m b := by
  unfold Memory.write
  by_cases ha : a < 0x1000
  · simp only [ha, if_true, and_true]
    split
    · rename_i h
      rw [Memory.read_erase, h]
    · rw [Memory.read_insert _ _ _ _ (Memory.erase_ne m a), Memory.read_erase]
      grind
  · simp [ha]

theorem Memory.read_write_self (m : Memory) (a : Nat) (v : Byte) (h : a < 0x1000) :
    Memory.read (Memory.write m a v) a = v := by simp [Memory.read_write, h]

theorem Memory.read_write_of_ne (m : Memory) (a b : Nat) (v : Byte) (h : b ≠ a) :
    Memory.read (Memory.write m a v) b = Memory.read m b := by simp [Memory.read_write, h]

/-- Consecutive writes are read back in order, and leave every other address. -/
theorem Memory.read_writeFrom (vs : List Byte) (m : Memory) (a b : Nat) (h : a + vs.length ≤ 0x1000) :
    Memory.read (Memory.writeFrom m a vs) b =
      if hb : a ≤ b ∧ b < a + vs.length then vs[b - a]'(by omega) else Memory.read m b := by
  induction vs generalizing m a with
  | nil => simp only [Memory.writeFrom]; grind
  | cons v vs ih =>
    simp only [List.length_cons] at h
    simp only [Memory.writeFrom, ih _ _ (show a + 1 + vs.length ≤ 0x1000 by omega), Memory.read_write]
    grind

/-! ### The canonical form -/

theorem Memory.wf_nil : Memory.wf [] := by simp [Memory.wf]

theorem State.reset_mem_wf : Memory.wf State.reset.mem := Memory.wf_nil

theorem Memory.wf_erase (m : Memory) (a : Nat) (h : Memory.wf m) : Memory.wf (Memory.erase m a) :=
  ⟨h.1.filter _, fun c hc => h.2 c (List.mem_of_mem_filter hc)⟩

theorem Memory.mem_insert (m : Memory) (a : Nat) (v : Byte) (c : Host.Cell) (h : c ∈ Memory.insert m a v) :
    c = (a, v) ∨ c ∈ m := by
  induction m with
  | nil => simpa [Memory.insert] using h
  | cons d m ih =>
    simp only [Memory.insert] at h
    split at h
    · simpa using h
    · rcases List.mem_cons.1 h with h | h
      · exact Or.inr (by simp [h])
      · exact (ih h).imp_right (fun h => by simp [h])

/-- Inserting an absent address keeps the addresses rising. -/
theorem Memory.insert_rising (m : Memory) (a : Nat) (v : Byte) (h : m.Pairwise (fun c d => c.1 < d.1))
    (ha : ∀ c ∈ m, c.1 ≠ a) : (Memory.insert m a v).Pairwise (fun c d => c.1 < d.1) := by
  induction m with
  | nil => simp [Memory.insert]
  | cons d m ih =>
    obtain ⟨hd, hm⟩ := List.pairwise_cons.1 h
    simp only [Memory.insert]
    split
    · rename_i hlt
      refine List.pairwise_cons.2 ⟨fun c hc => ?_, h⟩
      rcases List.mem_cons.1 hc with hc | hc
      · rw [hc]; exact hlt
      · have := hd c hc; simp only at *; omega
    · rename_i hge
      refine List.pairwise_cons.2 ⟨fun c hc => ?_, ih hm (fun c hc => ha c (by simp [hc]))⟩
      rcases Memory.mem_insert m a v c hc with hc | hc
      · rw [hc]; have := ha d (by simp); simp only at *; omega
      · exact hd c hc

/-- A write keeps the canonical form. -/
theorem Memory.wf_write (m : Memory) (a : Nat) (v : Byte) (h : Memory.wf m) : Memory.wf (Memory.write m a v) := by
  unfold Memory.write
  split
  · rename_i ha
    split
    · exact Memory.wf_erase m a h
    · rename_i hv
      have he := Memory.wf_erase m a h
      refine ⟨Memory.insert_rising _ a v he.1 (Memory.erase_ne m a), fun c hc => ?_⟩
      rcases Memory.mem_insert _ a v c hc with hc | hc
      · rw [hc]; exact ⟨ha, hv⟩
      · exact he.2 c hc
  · exact h

theorem Memory.wf_writeFrom (vs : List Byte) (m : Memory) (a : Nat) (h : Memory.wf m) :
    Memory.wf (Memory.writeFrom m a vs) := by
  induction vs generalizing m a with
  | nil => exact h
  | cons v vs ih => exact ih _ _ (Memory.wf_write m a v h)

end Sys2Proof.Machine
end

