-- ==== Sys2Proof/Laws/State.lean ====
section
/-! SUPPORT. One lemma per field of State per update, so that no proof unfolds a record update, and how register reads see
the updates. -/

namespace Sys2Proof.Machine

/-! ### setV -/

@[simp] theorem State.setV_V (s : State) (r : Reg) (v : Byte) : (s.setV r v).V = s.V.set r.toNat v r.isLt := rfl

@[simp] theorem State.setV_I (s : State) (r : Reg) (v : Byte) : (s.setV r v).I = s.I := rfl

@[simp] theorem State.setV_pc (s : State) (r : Reg) (v : Byte) : (s.setV r v).pc = s.pc := rfl

@[simp] theorem State.setV_sp (s : State) (r : Reg) (v : Byte) : (s.setV r v).sp = s.sp := rfl

@[simp] theorem State.setV_stack (s : State) (r : Reg) (v : Byte) : (s.setV r v).stack = s.stack := rfl

@[simp] theorem State.setV_DT (s : State) (r : Reg) (v : Byte) : (s.setV r v).DT = s.DT := rfl

@[simp] theorem State.setV_ST (s : State) (r : Reg) (v : Byte) : (s.setV r v).ST = s.ST := rfl

@[simp] theorem State.setV_mem (s : State) (r : Reg) (v : Byte) : (s.setV r v).mem = s.mem := rfl

@[simp] theorem State.setV_fault (s : State) (r : Reg) (v : Byte) : (s.setV r v).fault = s.fault := rfl

@[simp] theorem State.setV_env (s : State) (r : Reg) (v : Byte) : (s.setV r v).env = s.env := rfl

/-! ### setI -/

@[simp] theorem State.setI_V (s : State) (v : Word) : (s.setI v).V = s.V := rfl

@[simp] theorem State.setI_I (s : State) (v : Word) : (s.setI v).I = v := rfl

@[simp] theorem State.setI_pc (s : State) (v : Word) : (s.setI v).pc = s.pc := rfl

@[simp] theorem State.setI_sp (s : State) (v : Word) : (s.setI v).sp = s.sp := rfl

@[simp] theorem State.setI_stack (s : State) (v : Word) : (s.setI v).stack = s.stack := rfl

@[simp] theorem State.setI_DT (s : State) (v : Word) : (s.setI v).DT = s.DT := rfl

@[simp] theorem State.setI_ST (s : State) (v : Word) : (s.setI v).ST = s.ST := rfl

@[simp] theorem State.setI_mem (s : State) (v : Word) : (s.setI v).mem = s.mem := rfl

@[simp] theorem State.setI_fault (s : State) (v : Word) : (s.setI v).fault = s.fault := rfl

@[simp] theorem State.setI_env (s : State) (v : Word) : (s.setI v).env = s.env := rfl

/-! ### setPc -/

@[simp] theorem State.setPc_V (s : State) (v : Word) : (s.setPc v).V = s.V := rfl

@[simp] theorem State.setPc_I (s : State) (v : Word) : (s.setPc v).I = s.I := rfl

@[simp] theorem State.setPc_pc (s : State) (v : Word) : (s.setPc v).pc = v := rfl

@[simp] theorem State.setPc_sp (s : State) (v : Word) : (s.setPc v).sp = s.sp := rfl

@[simp] theorem State.setPc_stack (s : State) (v : Word) : (s.setPc v).stack = s.stack := rfl

@[simp] theorem State.setPc_DT (s : State) (v : Word) : (s.setPc v).DT = s.DT := rfl

@[simp] theorem State.setPc_ST (s : State) (v : Word) : (s.setPc v).ST = s.ST := rfl

@[simp] theorem State.setPc_mem (s : State) (v : Word) : (s.setPc v).mem = s.mem := rfl

@[simp] theorem State.setPc_fault (s : State) (v : Word) : (s.setPc v).fault = s.fault := rfl

@[simp] theorem State.setPc_env (s : State) (v : Word) : (s.setPc v).env = s.env := rfl

/-! ### setDT -/

@[simp] theorem State.setDT_V (s : State) (v : Byte) : (s.setDT v).V = s.V := rfl

@[simp] theorem State.setDT_I (s : State) (v : Byte) : (s.setDT v).I = s.I := rfl

@[simp] theorem State.setDT_pc (s : State) (v : Byte) : (s.setDT v).pc = s.pc := rfl

@[simp] theorem State.setDT_sp (s : State) (v : Byte) : (s.setDT v).sp = s.sp := rfl

@[simp] theorem State.setDT_stack (s : State) (v : Byte) : (s.setDT v).stack = s.stack := rfl

@[simp] theorem State.setDT_DT (s : State) (v : Byte) : (s.setDT v).DT = v := rfl

@[simp] theorem State.setDT_ST (s : State) (v : Byte) : (s.setDT v).ST = s.ST := rfl

@[simp] theorem State.setDT_mem (s : State) (v : Byte) : (s.setDT v).mem = s.mem := rfl

@[simp] theorem State.setDT_fault (s : State) (v : Byte) : (s.setDT v).fault = s.fault := rfl

@[simp] theorem State.setDT_env (s : State) (v : Byte) : (s.setDT v).env = s.env := rfl

/-! ### setST -/

@[simp] theorem State.setST_V (s : State) (v : Byte) : (s.setST v).V = s.V := rfl

@[simp] theorem State.setST_I (s : State) (v : Byte) : (s.setST v).I = s.I := rfl

@[simp] theorem State.setST_pc (s : State) (v : Byte) : (s.setST v).pc = s.pc := rfl

@[simp] theorem State.setST_sp (s : State) (v : Byte) : (s.setST v).sp = s.sp := rfl

@[simp] theorem State.setST_stack (s : State) (v : Byte) : (s.setST v).stack = s.stack := rfl

@[simp] theorem State.setST_DT (s : State) (v : Byte) : (s.setST v).DT = s.DT := rfl

@[simp] theorem State.setST_ST (s : State) (v : Byte) : (s.setST v).ST = v := rfl

@[simp] theorem State.setST_mem (s : State) (v : Byte) : (s.setST v).mem = s.mem := rfl

@[simp] theorem State.setST_fault (s : State) (v : Byte) : (s.setST v).fault = s.fault := rfl

@[simp] theorem State.setST_env (s : State) (v : Byte) : (s.setST v).env = s.env := rfl

/-! ### setEnv -/

@[simp] theorem State.setEnv_V (s : State) (e : Env) : (s.setEnv e).V = s.V := rfl

@[simp] theorem State.setEnv_I (s : State) (e : Env) : (s.setEnv e).I = s.I := rfl

@[simp] theorem State.setEnv_pc (s : State) (e : Env) : (s.setEnv e).pc = s.pc := rfl

@[simp] theorem State.setEnv_sp (s : State) (e : Env) : (s.setEnv e).sp = s.sp := rfl

@[simp] theorem State.setEnv_stack (s : State) (e : Env) : (s.setEnv e).stack = s.stack := rfl

@[simp] theorem State.setEnv_DT (s : State) (e : Env) : (s.setEnv e).DT = s.DT := rfl

@[simp] theorem State.setEnv_ST (s : State) (e : Env) : (s.setEnv e).ST = s.ST := rfl

@[simp] theorem State.setEnv_mem (s : State) (e : Env) : (s.setEnv e).mem = s.mem := rfl

@[simp] theorem State.setEnv_fault (s : State) (e : Env) : (s.setEnv e).fault = s.fault := rfl

@[simp] theorem State.setEnv_env (s : State) (e : Env) : (s.setEnv e).env = e := rfl

/-! ### writeMem -/

@[simp] theorem State.writeMem_V (s : State) (a : Word) (v : Byte) : (s.writeMem a v).V = s.V := rfl

@[simp] theorem State.writeMem_I (s : State) (a : Word) (v : Byte) : (s.writeMem a v).I = s.I := rfl

@[simp] theorem State.writeMem_pc (s : State) (a : Word) (v : Byte) : (s.writeMem a v).pc = s.pc := rfl

@[simp] theorem State.writeMem_sp (s : State) (a : Word) (v : Byte) : (s.writeMem a v).sp = s.sp := rfl

@[simp] theorem State.writeMem_stack (s : State) (a : Word) (v : Byte) : (s.writeMem a v).stack = s.stack := rfl

@[simp] theorem State.writeMem_DT (s : State) (a : Word) (v : Byte) : (s.writeMem a v).DT = s.DT := rfl

@[simp] theorem State.writeMem_ST (s : State) (a : Word) (v : Byte) : (s.writeMem a v).ST = s.ST := rfl

@[simp] theorem State.writeMem_mem (s : State) (a : Word) (v : Byte) : (s.writeMem a v).mem = Memory.write s.mem a.toNat v := rfl

@[simp] theorem State.writeMem_fault (s : State) (a : Word) (v : Byte) : (s.writeMem a v).fault = s.fault := rfl

@[simp] theorem State.writeMem_env (s : State) (a : Word) (v : Byte) : (s.writeMem a v).env = s.env := rfl

/-! ### advance -/

@[simp] theorem State.advance_V (s : State) : s.advance.V = s.V := rfl

@[simp] theorem State.advance_I (s : State) : s.advance.I = s.I := rfl

@[simp] theorem State.advance_pc (s : State) : s.advance.pc = s.pc + 2 := rfl

@[simp] theorem State.advance_sp (s : State) : s.advance.sp = s.sp := rfl

@[simp] theorem State.advance_stack (s : State) : s.advance.stack = s.stack := rfl

@[simp] theorem State.advance_DT (s : State) : s.advance.DT = s.DT := rfl

@[simp] theorem State.advance_ST (s : State) : s.advance.ST = s.ST := rfl

@[simp] theorem State.advance_mem (s : State) : s.advance.mem = s.mem := rfl

@[simp] theorem State.advance_fault (s : State) : s.advance.fault = s.fault := rfl

@[simp] theorem State.advance_env (s : State) : s.advance.env = s.env := rfl

/-! ### rewind -/

@[simp] theorem State.rewind_V (s : State) : s.rewind.V = s.V := rfl

@[simp] theorem State.rewind_I (s : State) : s.rewind.I = s.I := rfl

@[simp] theorem State.rewind_pc (s : State) : s.rewind.pc = s.pc - 2 := rfl

@[simp] theorem State.rewind_sp (s : State) : s.rewind.sp = s.sp := rfl

@[simp] theorem State.rewind_stack (s : State) : s.rewind.stack = s.stack := rfl

@[simp] theorem State.rewind_DT (s : State) : s.rewind.DT = s.DT := rfl

@[simp] theorem State.rewind_ST (s : State) : s.rewind.ST = s.ST := rfl

@[simp] theorem State.rewind_mem (s : State) : s.rewind.mem = s.mem := rfl

@[simp] theorem State.rewind_fault (s : State) : s.rewind.fault = s.fault := rfl

@[simp] theorem State.rewind_env (s : State) : s.rewind.env = s.env := rfl

/-! ### spendTurn -/

@[simp] theorem State.spendTurn_V (s : State) : s.spendTurn.V = s.V := rfl

@[simp] theorem State.spendTurn_I (s : State) : s.spendTurn.I = s.I := rfl

@[simp] theorem State.spendTurn_pc (s : State) : s.spendTurn.pc = s.pc := rfl

@[simp] theorem State.spendTurn_sp (s : State) : s.spendTurn.sp = s.sp := rfl

@[simp] theorem State.spendTurn_stack (s : State) : s.spendTurn.stack = s.stack := rfl

@[simp] theorem State.spendTurn_DT (s : State) : s.spendTurn.DT = s.DT := rfl

@[simp] theorem State.spendTurn_ST (s : State) : s.spendTurn.ST = s.ST := rfl

@[simp] theorem State.spendTurn_mem (s : State) : s.spendTurn.mem = s.mem := rfl

@[simp] theorem State.spendTurn_fault (s : State) : s.spendTurn.fault = s.fault := rfl

@[simp] theorem State.spendTurn_env (s : State) : s.spendTurn.env = s.env.spendTurn := rfl

/-! ### raiseFault -/

@[simp] theorem State.raiseFault_V (s : State) (c : FaultCause) (w : Option Word) (i : Word) : (s.raiseFault c w i).V = s.V := rfl

@[simp] theorem State.raiseFault_I (s : State) (c : FaultCause) (w : Option Word) (i : Word) : (s.raiseFault c w i).I = s.I := rfl

@[simp] theorem State.raiseFault_pc (s : State) (c : FaultCause) (w : Option Word) (i : Word) : (s.raiseFault c w i).pc = s.pc := rfl

@[simp] theorem State.raiseFault_sp (s : State) (c : FaultCause) (w : Option Word) (i : Word) : (s.raiseFault c w i).sp = s.sp := rfl

@[simp] theorem State.raiseFault_stack (s : State) (c : FaultCause) (w : Option Word) (i : Word) : (s.raiseFault c w i).stack = s.stack := rfl

@[simp] theorem State.raiseFault_DT (s : State) (c : FaultCause) (w : Option Word) (i : Word) : (s.raiseFault c w i).DT = s.DT := rfl

@[simp] theorem State.raiseFault_ST (s : State) (c : FaultCause) (w : Option Word) (i : Word) : (s.raiseFault c w i).ST = s.ST := rfl

@[simp] theorem State.raiseFault_mem (s : State) (c : FaultCause) (w : Option Word) (i : Word) : (s.raiseFault c w i).mem = s.mem := rfl

@[simp] theorem State.raiseFault_fault (s : State) (c : FaultCause) (w : Option Word) (i : Word) : (s.raiseFault c w i).fault = some ⟨c, s.pc, w, i⟩ := rfl

@[simp] theorem State.raiseFault_env (s : State) (c : FaultCause) (w : Option Word) (i : Word) : (s.raiseFault c w i).env = s.env := rfl

/-! ### raiseIn -/

@[simp] theorem State.raiseIn_V (s : State) (j : Instr) (c : FaultCause) (i : Word) : (s.raiseIn j c i).V = s.V := rfl

@[simp] theorem State.raiseIn_I (s : State) (j : Instr) (c : FaultCause) (i : Word) : (s.raiseIn j c i).I = s.I := rfl

@[simp] theorem State.raiseIn_pc (s : State) (j : Instr) (c : FaultCause) (i : Word) : (s.raiseIn j c i).pc = s.pc := rfl

@[simp] theorem State.raiseIn_sp (s : State) (j : Instr) (c : FaultCause) (i : Word) : (s.raiseIn j c i).sp = s.sp := rfl

@[simp] theorem State.raiseIn_stack (s : State) (j : Instr) (c : FaultCause) (i : Word) : (s.raiseIn j c i).stack = s.stack := rfl

@[simp] theorem State.raiseIn_DT (s : State) (j : Instr) (c : FaultCause) (i : Word) : (s.raiseIn j c i).DT = s.DT := rfl

@[simp] theorem State.raiseIn_ST (s : State) (j : Instr) (c : FaultCause) (i : Word) : (s.raiseIn j c i).ST = s.ST := rfl

@[simp] theorem State.raiseIn_mem (s : State) (j : Instr) (c : FaultCause) (i : Word) : (s.raiseIn j c i).mem = s.mem := rfl

@[simp] theorem State.raiseIn_fault (s : State) (j : Instr) (c : FaultCause) (i : Word) : (s.raiseIn j c i).fault = some ⟨c, s.pc, some (encode j), i⟩ := rfl

@[simp] theorem State.raiseIn_env (s : State) (j : Instr) (c : FaultCause) (i : Word) : (s.raiseIn j c i).env = s.env := rfl

/-! ### skipIf -/

@[simp] theorem State.skipIf_V (s : State) (c : Bool) : (s.skipIf c).V = s.V := by cases c <;> rfl

@[simp] theorem State.skipIf_I (s : State) (c : Bool) : (s.skipIf c).I = s.I := by cases c <;> rfl

@[simp] theorem State.skipIf_pc (s : State) (c : Bool) : (s.skipIf c).pc = if c then s.pc + 2 else s.pc := by cases c <;> rfl

@[simp] theorem State.skipIf_sp (s : State) (c : Bool) : (s.skipIf c).sp = s.sp := by cases c <;> rfl

@[simp] theorem State.skipIf_stack (s : State) (c : Bool) : (s.skipIf c).stack = s.stack := by cases c <;> rfl

@[simp] theorem State.skipIf_DT (s : State) (c : Bool) : (s.skipIf c).DT = s.DT := by cases c <;> rfl

@[simp] theorem State.skipIf_ST (s : State) (c : Bool) : (s.skipIf c).ST = s.ST := by cases c <;> rfl

@[simp] theorem State.skipIf_mem (s : State) (c : Bool) : (s.skipIf c).mem = s.mem := by cases c <;> rfl

@[simp] theorem State.skipIf_fault (s : State) (c : Bool) : (s.skipIf c).fault = s.fault := by cases c <;> rfl

@[simp] theorem State.skipIf_env (s : State) (c : Bool) : (s.skipIf c).env = s.env := by cases c <;> rfl

/-! ### Register reads -/

/-- A register reads the value last written to it, and a write to another register leaves it. -/
@[simp] theorem State.getV_setV (s : State) (x r : Reg) (v : Byte) :
    (s.setV x v).getV r = if r = x then v else s.getV r := by
  simp only [State.getV, State.setV, Vector.getElem_set, BitVec.toNat_inj, eq_comm]

/-- A register is read from `V` alone. -/
theorem State.getV_of_V (s t : State) (h : t.V = s.V) (r : Reg) : t.getV r = s.getV r := by
  simp only [State.getV, h]

@[simp] theorem State.getV_setI (s : State) (v : Word) (r : Reg) : (s.setI v).getV r = s.getV r := rfl

@[simp] theorem State.getV_setPc (s : State) (v : Word) (r : Reg) : (s.setPc v).getV r = s.getV r := rfl

@[simp] theorem State.getV_setDT (s : State) (v : Byte) (r : Reg) : (s.setDT v).getV r = s.getV r := rfl

@[simp] theorem State.getV_setST (s : State) (v : Byte) (r : Reg) : (s.setST v).getV r = s.getV r := rfl

@[simp] theorem State.getV_setEnv (s : State) (e : Env) (r : Reg) : (s.setEnv e).getV r = s.getV r := rfl

@[simp] theorem State.getV_writeMem (s : State) (a : Word) (v : Byte) (r : Reg) : (s.writeMem a v).getV r = s.getV r := rfl

@[simp] theorem State.getV_advance (s : State) (r : Reg) : s.advance.getV r = s.getV r := rfl

@[simp] theorem State.getV_rewind (s : State) (r : Reg) : s.rewind.getV r = s.getV r := rfl

@[simp] theorem State.getV_spendTurn (s : State) (r : Reg) : s.spendTurn.getV r = s.getV r := rfl

@[simp] theorem State.getV_raiseFault (s : State) (c : FaultCause) (w : Option Word) (i : Word) (r : Reg) : (s.raiseFault c w i).getV r = s.getV r := rfl

@[simp] theorem State.getV_raiseIn (s : State) (j : Instr) (c : FaultCause) (i : Word) (r : Reg) : (s.raiseIn j c i).getV r = s.getV r := rfl

@[simp] theorem State.getV_skipIf (s : State) (c : Bool) (r : Reg) : (s.skipIf c).getV r = s.getV r := by cases c <;> rfl

/-! ### Combined writes -/

/-- A result and then its flag: VF holds the flag, whichever register the result went to (R82). -/
@[simp] theorem State.getV_setResultThenFlag (s : State) (x r : Reg) (v f : Byte) :
    (s.setResultThenFlag x v f).getV r = if r = 0xF then f else if r = x then v else s.getV r := by
  simp [State.setResultThenFlag, flagReg]

@[simp] theorem State.setResultThenFlag_I (s : State) (x : Reg) (v w : Byte) : (s.setResultThenFlag x v w).I = s.I := rfl

@[simp] theorem State.setResultThenFlag_pc (s : State) (x : Reg) (v w : Byte) : (s.setResultThenFlag x v w).pc = s.pc := rfl

@[simp] theorem State.setResultThenFlag_sp (s : State) (x : Reg) (v w : Byte) : (s.setResultThenFlag x v w).sp = s.sp := rfl

@[simp] theorem State.setResultThenFlag_stack (s : State) (x : Reg) (v w : Byte) : (s.setResultThenFlag x v w).stack = s.stack := rfl

@[simp] theorem State.setResultThenFlag_DT (s : State) (x : Reg) (v w : Byte) : (s.setResultThenFlag x v w).DT = s.DT := rfl

@[simp] theorem State.setResultThenFlag_ST (s : State) (x : Reg) (v w : Byte) : (s.setResultThenFlag x v w).ST = s.ST := rfl

@[simp] theorem State.setResultThenFlag_mem (s : State) (x : Reg) (v w : Byte) : (s.setResultThenFlag x v w).mem = s.mem := rfl

@[simp] theorem State.setResultThenFlag_fault (s : State) (x : Reg) (v w : Byte) : (s.setResultThenFlag x v w).fault = s.fault := rfl

@[simp] theorem State.setResultThenFlag_env (s : State) (x : Reg) (v w : Byte) : (s.setResultThenFlag x v w).env = s.env := rfl

@[simp] theorem State.setShift_I (s : State) (o : ShiftOrder) (g h : Byte → Byte) (x y : Reg) :
    (s.setShift o g h x y).I = s.I := by cases o <;> rfl

@[simp] theorem State.setShift_pc (s : State) (o : ShiftOrder) (g h : Byte → Byte) (x y : Reg) :
    (s.setShift o g h x y).pc = s.pc := by cases o <;> rfl

@[simp] theorem State.setShift_sp (s : State) (o : ShiftOrder) (g h : Byte → Byte) (x y : Reg) :
    (s.setShift o g h x y).sp = s.sp := by cases o <;> rfl

@[simp] theorem State.setShift_stack (s : State) (o : ShiftOrder) (g h : Byte → Byte) (x y : Reg) :
    (s.setShift o g h x y).stack = s.stack := by cases o <;> rfl

@[simp] theorem State.setShift_DT (s : State) (o : ShiftOrder) (g h : Byte → Byte) (x y : Reg) :
    (s.setShift o g h x y).DT = s.DT := by cases o <;> rfl

@[simp] theorem State.setShift_ST (s : State) (o : ShiftOrder) (g h : Byte → Byte) (x y : Reg) :
    (s.setShift o g h x y).ST = s.ST := by cases o <;> rfl

@[simp] theorem State.setShift_mem (s : State) (o : ShiftOrder) (g h : Byte → Byte) (x y : Reg) :
    (s.setShift o g h x y).mem = s.mem := by cases o <;> rfl

@[simp] theorem State.setShift_fault (s : State) (o : ShiftOrder) (g h : Byte → Byte) (x y : Reg) :
    (s.setShift o g h x y).fault = s.fault := by cases o <;> rfl

@[simp] theorem State.setShift_env (s : State) (o : ShiftOrder) (g h : Byte → Byte) (x y : Reg) :
    (s.setShift o g h x y).env = s.env := by cases o <;> rfl

end Sys2Proof.Machine
end

