-- ==== Sys2Proof/Laws/Ops.lean ====
section
/-! SUPPORT. One lemma per shared operation that says everything it can do: the address check, the call stack, the block
transfers. -/

namespace Sys2Proof.Machine

/-! ### The address check -/

/-- The address of access `k` from `base` when it lies inside memory (R27). -/
theorem access_toNat (base : Word) (k : Nat) (h : base.toNat + k ≤ 0xFFFF) :
    (base + BitVec.ofNat 16 k).toNat = base.toNat + k := by
  simp only [BitVec.toNat_add, BitVec.toNat_ofNat]; omega

/-- One more access at the end: the first failure is found before it, else it is the new one. -/
theorem firstBad_succ (base : Word) (n : Nat) :
    firstBad base (n + 1) =
      (firstBad base n).or
        (if 0x1000 ≤ (base + BitVec.ofNat 16 n).toNat then some (base + BitVec.ofNat 16 n) else none) := by
  simp only [firstBad, accessAddrs, List.range_succ, List.map_append, List.map_cons, List.map_nil, List.find?_append]
  congr 1
  by_cases h : 0x1000 ≤ (base + BitVec.ofNat 16 n).toNat <;> simp only [List.find?_cons, h, decide_true, decide_false] <;> rfl

/-- The check of `n` accesses from `base`, at most 16 (R28, R29): it fails exactly when one lies at 0x1000 or above, and then
reports the base itself or, below it, the address 0x1000. -/
theorem firstBad_eq (base : Word) (n : Nat) (hn : n ≤ 16) :
    firstBad base n =
      if 0 < n ∧ 0x1000 < base.toNat + n then some (if base.toNat < 0x1000 then 0x1000 else base) else none := by
  induction n with
  | zero => simp [firstBad, accessAddrs]
  | succ n ih =>
    rw [firstBad_succ, ih (by omega)]
    by_cases h : 0 < n ∧ 0x1000 < base.toNat + n
    · rw [if_pos h, Option.some_or, if_pos (show 0 < n + 1 ∧ 0x1000 < base.toNat + (n + 1) by omega)]
    · rw [if_neg h, Option.none_or]
      by_cases hb : base.toNat < 0x1000
      · have e := access_toNat base n (by omega)
        rw [e, if_pos hb]
        by_cases h1 : 0x1000 ≤ base.toNat + n
        · rw [if_pos h1, if_pos (by omega)]
          congr 1
          apply BitVec.eq_of_toNat_eq
          rw [e, show (0x1000 : Word).toNat = 0x1000 by decide]
          omega
        · rw [if_neg h1, if_neg (by omega)]
      · obtain rfl : n = 0 := by omega
        rw [show base + BitVec.ofNat 16 0 = base by simp]
        rw [if_pos (by omega), if_pos (by omega), if_neg hb]

/-- The check passes exactly when no access leaves memory. -/
theorem firstBad_eq_none (base : Word) (n : Nat) (hn : n ≤ 16) :
    firstBad base n = none ↔ n = 0 ∨ base.toNat + n ≤ 0x1000 := by
  rw [firstBad_eq base n hn]; split <;> simp only [reduceCtorEq, true_iff, false_iff] <;> omega

/-! ### The call stack -/

/-- A push with fewer than 16 live entries writes the entry at sp and counts it; every other entry and field stays. -/
theorem State.push?_of_lt (s : State) (v : Word) (h : s.sp.val < 16) :
    s.push? v = some { s with stack := s.stack.set s.sp.val v h, sp := ⟨s.sp.val + 1, by omega⟩ } := by
  simp [State.push?, h]

theorem State.push?_full (s : State) (v : Word) (h : s.sp.val = 16) : s.push? v = none := by simp [State.push?, h]

/-- A pop with a live entry answers the newest and counts it out; the entries and every other field stay. -/
theorem State.pop?_of_pos (s : State) (h : 0 < s.sp.val) :
    s.pop? = some (s.stack[s.sp.val - 1]'(by omega), { s with sp := ⟨s.sp.val - 1, by omega⟩ }) := by
  simp [State.pop?, h]

theorem State.pop?_empty (s : State) (h : s.sp.val = 0) : s.pop? = none := by simp [State.pop?, h]

/-! ### Storing and loading blocks -/

/-- Storing bytes changes memory alone. -/
theorem State.storeBytes_eq (vs : List Byte) (s : State) (a : Word) :
    s.storeBytes a vs = { s with mem := (s.storeBytes a vs).mem } := by
  induction vs generalizing s a with
  | nil => rfl
  | cons v vs ih => simp only [State.storeBytes]; rw [ih]; rfl

/-- Inside memory, bytes stored from an address are those consecutive writes. -/
theorem State.storeBytes_mem (vs : List Byte) (s : State) (a : Word) (h : a.toNat + vs.length ≤ 0x1000) :
    (s.storeBytes a vs).mem = Memory.writeFrom s.mem a.toNat vs := by
  induction vs generalizing s a with
  | nil => rfl
  | cons v vs ih =>
    simp only [List.length_cons] at h
    have e : (a + 1).toNat = a.toNat + 1 := access_toNat a 1 (by omega)
    simp only [State.storeBytes, Memory.writeFrom]
    rw [ih _ _ (by omega), e]
    rfl

/-- The registers 0 to `n - 1` in order. -/
def State.regBytes (s : State) (n : Nat) : List Byte := (List.range n).map (fun k => s.getV (BitVec.ofNat 4 k))

/-- Storing `n` registers changes memory and I alone, and I ends `n` further (R113). -/
theorem State.storeRegs_eq (s : State) (n : Nat) :
    s.storeRegs n = { s with mem := (s.storeRegs n).mem, I := s.I + BitVec.ofNat 16 n } := by
  induction n with
  | zero => simp [State.storeRegs]
  | succ n ih =>
    simp only [State.storeRegs]
    rw [ih]
    simp only [State.setI, State.writeMem, State.mk.injEq, true_and, and_true]
    rw [BitVec.add_assoc, BitVec.ofNat_add]
    rfl

/-- Appending one byte to consecutive writes. -/
theorem Memory.writeFrom_append (vs : List Byte) (v : Byte) (m : Memory) (a : Nat) :
    Memory.writeFrom m a (vs ++ [v]) = Memory.write (Memory.writeFrom m a vs) (a + vs.length) v := by
  induction vs generalizing m a with
  | nil => rfl
  | cons u vs ih => simp only [List.cons_append, Memory.writeFrom, ih, List.length_cons]; congr 1; omega

/-- Inside memory, `n` stored registers are consecutive writes from I (R113). -/
theorem State.storeRegs_mem (s : State) (n : Nat) (h : n = 0 ∨ s.I.toNat + n ≤ 0x1000) :
    (s.storeRegs n).mem = Memory.writeFrom s.mem s.I.toNat (s.regBytes n) := by
  induction n with
  | zero => rfl
  | succ n ih =>
    have ih := ih (by omega)
    have e := access_toNat s.I n (by omega)
    have hs := State.storeRegs_eq s n
    simp only [State.storeRegs, State.regBytes, List.range_succ, List.map_append, List.map_cons, List.map_nil]
    rw [Memory.writeFrom_append, show (List.map (fun k => s.getV (BitVec.ofNat 4 k)) (List.range n)) = s.regBytes n from rfl,
      ← ih]
    rw [show (s.regBytes n).length = n by simp [State.regBytes]]
    rw [hs]
    simp only [State.setI_mem, State.writeMem_mem, e]
    rfl

/-- Loading `n` registers changes V and I alone, and I ends `n` further (R114). -/
theorem State.loadRegs_eq (s : State) (n : Nat) :
    s.loadRegs n = { s with V := (s.loadRegs n).V, I := s.I + BitVec.ofNat 16 n } := by
  induction n with
  | zero => simp [State.loadRegs]
  | succ n ih =>
    simp only [State.loadRegs]
    rw [ih]
    simp only [State.setI, State.setV, State.mk.injEq, true_and, and_true]
    rw [BitVec.add_assoc, BitVec.ofNat_add]
    rfl

/-- Inside memory, register `r` below `n` is loaded with the byte at I + r, and every other register stays (R114). -/
theorem State.loadRegs_getV (s : State) (n : Nat) (hn : n ≤ 16) (h : n = 0 ∨ s.I.toNat + n ≤ 0x1000) (r : Reg) :
    (s.loadRegs n).getV r = if r.toNat < n then Memory.read s.mem (s.I.toNat + r.toNat) else s.getV r := by
  induction n with
  | zero => simp [State.loadRegs]
  | succ n ih =>
    have e := access_toNat s.I n (by omega)
    have hs := State.loadRegs_eq s n
    have hI : (s.loadRegs n).I = s.I + BitVec.ofNat 16 n := by rw [hs]
    have hm : (s.loadRegs n).mem = s.mem := by rw [hs]
    simp only [State.loadRegs, State.getV_setI, State.getV_setV, ih (by omega) (by omega), State.readMem, hI, hm, e]
    have hr : r = BitVec.ofNat 4 n ↔ r.toNat = n := by
      rw [← BitVec.toNat_inj, BitVec.toNat_ofNat, Nat.mod_eq_of_lt (by omega)]
    by_cases h1 : r.toNat = n
    · rw [if_pos (hr.2 h1), if_pos (by omega), h1]
    · rw [if_neg (fun h => h1 (hr.1 h))]
      by_cases h2 : r.toNat < n
      · rw [if_pos h2, if_pos (by omega)]
      · rw [if_neg h2, if_neg (by omega)]

/-! ### The canonical form of memory across the operations -/

theorem State.writeMem_canonical (s : State) (a : Word) (v : Byte) (h : s.MemoryCanonical) :
    (s.writeMem a v).MemoryCanonical := Memory.wf_write _ _ _ h

theorem State.storeBytes_canonical (vs : List Byte) (s : State) (a : Word) (h : s.MemoryCanonical) :
    (s.storeBytes a vs).MemoryCanonical := by
  induction vs generalizing s a with
  | nil => exact h
  | cons v vs ih => exact ih _ _ (s.writeMem_canonical a v h)

theorem State.storeRegs_canonical (s : State) (n : Nat) (h : s.MemoryCanonical) : (s.storeRegs n).MemoryCanonical := by
  induction n with
  | zero => exact h
  | succ n ih => exact Memory.wf_write _ _ _ ih

end Sys2Proof.Machine
end

