-- ==== Sys2Proof/Laws/Ports.lean ====
section
/-! SUPPORT. What the port operations answer and leave (60_exceptions R130 to R135). -/

namespace Sys2Proof.Machine

/-- Every pixel of the blank frame buffer is off. -/
@[simp] theorem FrameBuffer.blank_get (r c : Nat) (hr : r < 32) (hc : c < 64) : (FrameBuffer.blank[r])[c] = false := by
  simp [FrameBuffer.blank]

@[simp] theorem Env.pixel_displayClear (e : Env) (p : Pixel) : e.displayClear.pixel p = false := by
  simp [Env.displayClear, Env.pixel]

@[simp] theorem Env.displayToggle_answer (e : Env) (p : Pixel) : (e.displayToggle p).1 = e.pixel p := rfl

/-- A toggle flips its pixel and no other (R131). -/
@[simp] theorem Env.pixel_displayToggle (e : Env) (p q : Pixel) :
    (e.displayToggle p).2.pixel q = (e.pixel q ^^ decide (q = p)) := by
  obtain ⟨pc, pr⟩ := p
  obtain ⟨qc, qr⟩ := q
  simp only [Env.displayToggle, Env.pixel, Vector.getElem_set, Pixel.mk.injEq, Fin.ext_iff]
  by_cases hr : pr.val = qr.val
  · by_cases hc : pc.val = qc.val
    · simp [hr, hc]
    · simp only [hr, if_true, Vector.getElem_set, hc, if_false]
      simp [Ne.symm hc]
  · simp [hr, Ne.symm hr]

@[simp] theorem Env.calls_displayToggle (e : Env) (p : Pixel) :
    (e.displayToggle p).2.calls = .displayToggle p (e.pixel p) :: e.calls := rfl

@[simp] theorem Env.tone_displayToggle (e : Env) (p : Pixel) : (e.displayToggle p).2.tone = e.tone := rfl

@[simp] theorem Env.schedule_displayToggle (e : Env) (p : Pixel) : (e.displayToggle p).2.schedule = e.schedule := rfl

@[simp] theorem Env.draws_displayToggle (e : Env) (p : Pixel) : (e.displayToggle p).2.draws = e.draws := rfl

/-- Toggling distinct pixels flips exactly those, answers true exactly when one was on, records the calls in order with the
pixels' own bits as answers, and leaves the rest of the environment (R101, R131). -/
theorem Env.togglePixels_spec (ps : List Pixel) (e : Env) (h : ps.Nodup) :
    (Env.togglePixels ps e).1 = ps.any e.pixel ∧
    (∀ q, (Env.togglePixels ps e).2.pixel q = (e.pixel q ^^ decide (q ∈ ps))) ∧
    (Env.togglePixels ps e).2.calls = (ps.map (fun p => PortCall.displayToggle p (e.pixel p))).reverse ++ e.calls ∧
    (Env.togglePixels ps e).2.tone = e.tone ∧
    (Env.togglePixels ps e).2.schedule = e.schedule ∧
    (Env.togglePixels ps e).2.draws = e.draws := by
  induction ps generalizing e with
  | nil => simp [Env.togglePixels]
  | cons p ps ih =>
    obtain ⟨hp, hps⟩ := List.nodup_cons.1 h
    obtain ⟨h1, h2, h3, h4, h5, h6⟩ := ih (e.displayToggle p).2 hps
    have same : ∀ q ∈ ps, (e.displayToggle p).2.pixel q = e.pixel q := by
      intro q hq
      have : q ≠ p := fun hqp => hp (hqp ▸ hq)
      simp [this]
    refine ⟨?_, fun q => ?_, ?_, ?_, ?_, ?_⟩
    · simp only [Env.togglePixels, h1, Env.displayToggle_answer, List.any_cons]
      congr 1
      apply Bool.eq_iff_iff.2
      simp only [List.any_eq_true]
      exact ⟨fun ⟨q, hq, hv⟩ => ⟨q, hq, by rwa [same q hq] at hv⟩, fun ⟨q, hq, hv⟩ => ⟨q, hq, by rwa [same q hq]⟩⟩
    · simp only [Env.togglePixels, h2, Env.pixel_displayToggle, List.mem_cons]
      by_cases hq : q = p
      · subst hq; simp [hp]
      · simp [hq]
    · simp only [Env.togglePixels, h3, List.map_cons, List.reverse_cons, List.append_assoc, List.singleton_append,
        Env.calls_displayToggle]
      congr 2
      exact List.map_congr_left (fun q hq => by rw [same q hq])
    · simp [Env.togglePixels, h4]
    · simp [Env.togglePixels, h5]
    · simp [Env.togglePixels, h6]

/-- Spending a turn touches the host's choices alone. -/
theorem Env.spendTurn_eq (e : Env) :
    e.spendTurn.fb = e.fb ∧ e.spendTurn.tone = e.tone ∧ e.spendTurn.calls = e.calls := by
  unfold Env.spendTurn; split <;> exact ⟨rfl, rfl, rfl⟩

end Sys2Proof.Machine
end

