-- ==== Sys2Proof/Laws/Draw.lean ====
section
/-! SUPPORT. The pixels a draw toggles are distinct, and are those the sprite covers (45_draw R99 to R101). -/

namespace Sys2Proof.Machine

theorem pixelAt_eq_some (c r : Nat) (p : Pixel) : pixelAt c r = some p ↔ p.col.val = c ∧ p.row.val = r := by
  obtain ⟨⟨pc, hc⟩, ⟨pr, hr⟩⟩ := p
  unfold pixelAt
  split
  · simp only [Option.some.injEq, Pixel.mk.injEq, Fin.mk.injEq]; omega
  · simp only [reduceCtorEq, false_iff]; omega

theorem mem_spriteRow (s : State) (x y : Reg) (k : Nat) (p : Pixel) :
    p ∈ spriteRow s x y k ↔
      p.row.val = drawRow s y + k ∧ drawCol s x ≤ p.col.val ∧ p.col.val < drawCol s x + 8 ∧
        spriteBit (s.readMem (s.I + BitVec.ofNat 16 k)) (p.col.val - drawCol s x) = true := by
  simp only [spriteRow, List.mem_filterMap, List.mem_range, Option.ite_none_right_eq_some, pixelAt_eq_some]
  constructor
  · rintro ⟨b, hb, hs, hc, hr⟩
    refine ⟨hr, by omega, by omega, ?_⟩
    rwa [hc, Nat.add_sub_cancel_left]
  · rintro ⟨hr, h1, h2, hs⟩
    exact ⟨p.col.val - drawCol s x, by omega, hs, by omega, hr⟩

theorem mem_spritePixels (s : State) (x y : Reg) (n : Nibble) (p : Pixel) :
    p ∈ spritePixels s x y n ↔ ∃ k < drawCount s y n, p ∈ spriteRow s x y k := by
  simp [spritePixels]

theorem spriteRow_nodup (s : State) (x y : Reg) (k : Nat) : (spriteRow s x y k).Nodup := by
  refine List.Nodup.filterMap ?_ List.nodup_range
  intro a b p ha hb
  simp only [Option.mem_def, Option.ite_none_right_eq_some, pixelAt_eq_some] at ha hb
  omega

/-- No pixel is toggled twice by one draw (R101). -/
theorem spritePixels_nodup (s : State) (x y : Reg) (n : Nibble) : (spritePixels s x y n).Nodup := by
  rw [spritePixels, List.nodup_flatMap]
  refine ⟨fun k _ => spriteRow_nodup s x y k, List.nodup_range.imp ?_⟩
  intro a b hab p ha hb
  have ha := ((mem_spriteRow s x y a p).1 ha).1
  have hb := ((mem_spriteRow s x y b p).1 hb).1
  omega

end Sys2Proof.Machine
end

