-- ==== Sys2Proof/Laws/Encoding.lean ====
section
/-! SUPPORT. The fields of a packed word, so that no proof about the decoder or encoder unfolds a field's bits. -/

namespace Sys2Proof

/-- A concatenation as a number. -/
theorem toNat_append_eq {m k : Nat} (a : BitVec m) (b : BitVec k) : (a ++ b).toNat = a.toNat * 2 ^ k + b.toNat := by
  rw [BitVec.toNat_append, ← Nat.shiftLeft_add_eq_or_of_lt b.isLt, Nat.shiftLeft_eq]

@[simp] theorem opClass_packA (c : Nibble) (a : Addr12) : opClass (packA c a) = c := by
  apply BitVec.eq_of_toNat_eq
  simp only [opClass, packA, BitVec.extractLsb'_toNat, toNat_append_eq, Nat.shiftRight_eq_div_pow]; omega

@[simp] theorem fieldNNN_packA (c : Nibble) (a : Addr12) : fieldNNN (packA c a) = a := by
  apply BitVec.eq_of_toNat_eq
  simp only [fieldNNN, packA, BitVec.extractLsb'_toNat, toNat_append_eq, Nat.shiftRight_eq_div_pow]; omega

@[simp] theorem opClass_packXNN (c : Nibble) (x : Reg) (nn : Byte) : opClass (packXNN c x nn) = c :=
  opClass_packA c (x ++ nn)

@[simp] theorem fieldX_packXNN (c : Nibble) (x : Reg) (nn : Byte) : fieldX (packXNN c x nn) = x := by
  apply BitVec.eq_of_toNat_eq
  simp only [fieldX, packXNN, BitVec.extractLsb'_toNat, toNat_append_eq, Nat.shiftRight_eq_div_pow]; omega

@[simp] theorem fieldNN_packXNN (c : Nibble) (x : Reg) (nn : Byte) : fieldNN (packXNN c x nn) = nn := by
  apply BitVec.eq_of_toNat_eq
  simp only [fieldNN, packXNN, BitVec.extractLsb'_toNat, toNat_append_eq, Nat.shiftRight_eq_div_pow]; omega

@[simp] theorem opClass_packXYN (c : Nibble) (x y : Reg) (n : Nibble) : opClass (packXYN c x y n) = c :=
  opClass_packA c (x ++ (y ++ n : BitVec 8) : BitVec 12)

@[simp] theorem fieldX_packXYN (c : Nibble) (x y : Reg) (n : Nibble) : fieldX (packXYN c x y n) = x :=
  fieldX_packXNN c x (y ++ n)

@[simp] theorem fieldY_packXYN (c : Nibble) (x y : Reg) (n : Nibble) : fieldY (packXYN c x y n) = y := by
  apply BitVec.eq_of_toNat_eq
  simp only [fieldY, packXYN, BitVec.extractLsb'_toNat, toNat_append_eq, Nat.shiftRight_eq_div_pow]; omega

@[simp] theorem fieldN_packXYN (c : Nibble) (x y : Reg) (n : Nibble) : fieldN (packXYN c x y n) = n := by
  apply BitVec.eq_of_toNat_eq
  simp only [fieldN, packXYN, BitVec.extractLsb'_toNat, toNat_append_eq, Nat.shiftRight_eq_div_pow]; omega

/-! ### A word is its fields packed -/

theorem packA_fields (w : Word) : packA (opClass w) (fieldNNN w) = w := by
  apply BitVec.eq_of_toNat_eq
  simp only [opClass, packA, fieldNNN, BitVec.extractLsb'_toNat, toNat_append_eq, Nat.shiftRight_eq_div_pow]; omega

theorem packXNN_fields (w : Word) : packXNN (opClass w) (fieldX w) (fieldNN w) = w := by
  apply BitVec.eq_of_toNat_eq
  simp only [opClass, packXNN, fieldX, fieldNN, BitVec.extractLsb'_toNat, toNat_append_eq, Nat.shiftRight_eq_div_pow]; omega

theorem packXYN_fields (w : Word) : packXYN (opClass w) (fieldX w) (fieldY w) (fieldN w) = w := by
  apply BitVec.eq_of_toNat_eq
  simp only [opClass, packXYN, fieldX, fieldY, fieldN, BitVec.extractLsb'_toNat, toNat_append_eq,
    Nat.shiftRight_eq_div_pow]; omega

end Sys2Proof
end

