-- ==== Sys2Proof/Laws/PerInstr.lean ====
section
/-! SUPPORT. A statement about every instruction as syntax: its word carries the fixed bits of its row of the opcode map (R59). -/

namespace Sys2Proof.Laws.FixedBits

/-- The word of an instruction matches its row: `w & mask == match`. -/
def Statement (i : Instr) : Prop := encode i &&& (rowOf i).mask = (rowOf i).pattern

/-- The class bits of a packed word. -/
theorem packA_class (c : Nibble) (a : Addr12) : packA c a &&& 0xF000 = packA c 0 := by
  have h : (0xF000 : Word) = (BitVec.allOnes 4) ++ (0#12) := by decide
  rw [h, packA, BitVec.and_append, BitVec.and_zero, BitVec.and_allOnes]
  rfl

/-- The class and selector bits of a word packed with `nn`. -/
theorem packXNN_selector (c : Nibble) (x : Reg) (nn : Byte) : packXNN c x nn &&& 0xF0FF = packXNN c 0 nn := by
  have h : (0xF0FF : Word) = (BitVec.allOnes 4) ++ ((0#4) ++ (BitVec.allOnes 8) : BitVec 12) := by decide
  rw [h, packXNN, BitVec.and_append, BitVec.and_append, BitVec.and_zero, BitVec.and_allOnes, BitVec.and_allOnes]
  rfl

/-- The class and selector bits of a word packed with `n`. -/
theorem packXYN_selector (c : Nibble) (x y : Reg) (n : Nibble) : packXYN c x y n &&& 0xF00F = packXYN c 0 0 n := by
  have h : (0xF00F : Word) =
      (BitVec.allOnes 4) ++ ((0#4) ++ ((0#4) ++ (BitVec.allOnes 4) : BitVec 8) : BitVec 12) := by decide
  rw [h, packXYN, BitVec.and_append, BitVec.and_append, BitVec.and_append, BitVec.and_zero, BitVec.and_zero,
    BitVec.and_allOnes, BitVec.and_allOnes]
  rfl

theorem packXNN_class (c : Nibble) (x : Reg) (nn : Byte) : packXNN c x nn &&& 0xF000 = packA c 0 := packA_class c (x ++ nn)

theorem packXYN_class (c : Nibble) (x y : Reg) (n : Nibble) : packXYN c x y n &&& 0xF000 = packA c 0 :=
  packA_class c (x ++ (y ++ n : BitVec 8) : BitVec 12)

theorem cls : Statement .cls := show _ = _ by decide

theorem ret : Statement .ret := show _ = _ by decide

theorem sys (nnn : Addr12) : Statement (.sys nnn) := packA_class _ nnn

theorem jp (nnn : Addr12) : Statement (.jp nnn) := packA_class _ nnn

theorem call (nnn : Addr12) : Statement (.call nnn) := packA_class _ nnn

theorem seImm (x : Reg) (nn : Byte) : Statement (.seImm x nn) := packXNN_class _ x nn

theorem sneImm (x : Reg) (nn : Byte) : Statement (.sneImm x nn) := packXNN_class _ x nn

theorem seReg (x y : Reg) (n : Nibble) : Statement (.seReg x y n) := packXYN_class _ x y n

theorem ldImm (x : Reg) (nn : Byte) : Statement (.ldImm x nn) := packXNN_class _ x nn

theorem addImm (x : Reg) (nn : Byte) : Statement (.addImm x nn) := packXNN_class _ x nn

theorem ldReg (x y : Reg) : Statement (.ldReg x y) := packXYN_selector _ x y _

theorem orReg (x y : Reg) : Statement (.orReg x y) := packXYN_selector _ x y _

theorem andReg (x y : Reg) : Statement (.andReg x y) := packXYN_selector _ x y _

theorem xorReg (x y : Reg) : Statement (.xorReg x y) := packXYN_selector _ x y _

theorem addReg (x y : Reg) : Statement (.addReg x y) := packXYN_selector _ x y _

theorem sub (x y : Reg) : Statement (.sub x y) := packXYN_selector _ x y _

theorem shr (x y : Reg) : Statement (.shr x y) := packXYN_selector _ x y _

theorem subn (x y : Reg) : Statement (.subn x y) := packXYN_selector _ x y _

theorem shl (x y : Reg) : Statement (.shl x y) := packXYN_selector _ x y _

theorem unlisted8 (x y : Reg) (n : Nibble) : Statement (.unlisted8 x y n) := packXYN_class _ x y n

theorem sneReg (x y : Reg) (n : Nibble) : Statement (.sneReg x y n) := packXYN_class _ x y n

theorem ldI (nnn : Addr12) : Statement (.ldI nnn) := packA_class _ nnn

theorem jpV0 (nnn : Addr12) : Statement (.jpV0 nnn) := packA_class _ nnn

theorem rnd (x : Reg) (nn : Byte) : Statement (.rnd x nn) := packXNN_class _ x nn

theorem drw (x y : Reg) (n : Nibble) : Statement (.drw x y n) := packXYN_class _ x y n

theorem skp (x : Reg) : Statement (.skp x) := packXNN_selector _ x _

theorem sknp (x : Reg) : Statement (.sknp x) := packXNN_selector _ x _

theorem unlistedE (x : Reg) (nn : Byte) : Statement (.unlistedE x nn) := packXNN_class _ x nn

theorem ldVxDT (x : Reg) : Statement (.ldVxDT x) := packXNN_selector _ x _

theorem ldVxK (x : Reg) : Statement (.ldVxK x) := packXNN_selector _ x _

theorem ldDTVx (x : Reg) : Statement (.ldDTVx x) := packXNN_selector _ x _

theorem ldSTVx (x : Reg) : Statement (.ldSTVx x) := packXNN_selector _ x _

theorem addIVx (x : Reg) : Statement (.addIVx x) := packXNN_selector _ x _

theorem ldFVx (x : Reg) : Statement (.ldFVx x) := packXNN_selector _ x _

theorem ldBVx (x : Reg) : Statement (.ldBVx x) := packXNN_selector _ x _

theorem ldIVx (x : Reg) : Statement (.ldIVx x) := packXNN_selector _ x _

theorem ldVxI (x : Reg) : Statement (.ldVxI x) := packXNN_selector _ x _

theorem unlistedF (x : Reg) (nn : Byte) : Statement (.unlistedF x nn) := packXNN_class _ x nn

end Sys2Proof.Laws.FixedBits
end

