-- ==== Sys2Proof/Laws/Safety.lean ====
section
/-! SUPPORT. The small lemmas of the terms claims use. -/

namespace Sys2Proof.Machine

/-- A skip's two advances (R66, 42_skips). -/
theorem pc_add_four (pc : Word) : pc + 2 + 2 = pc + 4 := by rw [BitVec.add_assoc]; rfl

/-- The keys of consecutive accesses inside memory. -/
theorem mem_dataAddrs (s : State) (n a : Nat) (h : s.I.toNat + n ≤ 0x1000) :
    a ∈ dataAddrs s n ↔ s.I.toNat ≤ a ∧ a < s.I.toNat + n := by
  simp only [dataAddrs, accessAddrs, List.map_map, List.mem_map, List.mem_range, Function.comp]
  constructor
  · rintro ⟨k, hk, rfl⟩
    rw [access_toNat _ _ (by omega)]
    omega
  · rintro ⟨h1, h2⟩
    refine ⟨a - s.I.toNat, by omega, ?_⟩
    rw [access_toNat _ _ (by omega)]
    omega

/-- The registers up to `x` by number. -/
theorem mem_regsUpTo (x r : Reg) : r ∈ regsUpTo x ↔ r.toNat ≤ x.toNat := by
  have hx := x.isLt
  simp only [regsUpTo, List.mem_map, List.mem_range]
  constructor
  · rintro ⟨k, hk, rfl⟩
    simp only [BitVec.toNat_ofNat]
    omega
  · intro h
    exact ⟨r.toNat, by omega, by simp⟩

/-- The range fault of the spec's table is the address check of the meanings. -/
theorem rangeFault_eq (s : State) (n : Nat) (hn : n ≤ 16) :
    rangeFault s n = (firstBad s.I n).map (fun a => (FaultCause.memOutOfRange, a)) := by
  rw [firstBad_eq _ _ hn]
  unfold rangeFault
  split <;> rfl

/-- The tone of a state whose tone was set. -/
@[simp] theorem State.withTone_env (s : State) (b : Bool) : (s.withTone b).env = { s.env with tone := b } := rfl

@[simp] theorem State.withTone_withTone (s : State) (b c : Bool) : (s.withTone b).withTone c = s.withTone c := rfl

@[simp] theorem State.getV_withTone (s : State) (b : Bool) (r : Reg) : (s.withTone b).getV r = s.getV r := rfl

end Sys2Proof.Machine
end

