-- ==== Sys2Proof/Laws/Step.lean ====
section
/-! SUPPORT. Everything a step can be (40_cycle R64 to R72, 60_exceptions R125 to R127). -/

namespace Sys2Proof.Machine

/-- A step that answers a next state is a fetch fault, an execution of the decoded instruction or a tick, of a machine without a
fault, with the host's choice spent. -/
theorem step_cases {s t : State} (h : step s = .next t) :
    s.fault = none ∧
      ((s.env.nextAgent = .cycle ∧ 0x0FFE < s.pc.toNat ∧ t = (s.raiseFault .fetchOutOfRange none s.pc).spendTurn) ∨
        (s.env.nextAgent = .cycle ∧ s.pc.toNat ≤ 0x0FFE ∧
          ∃ u, exec (decodeWord s.fetchWord) s = .next u ∧ t = u.spendTurn) ∨
        (s.env.nextAgent = .tick ∧ t = s.tick.spendTurn)) := by
  unfold step at h
  split at h
  · cases h
  · rename_i hf
    refine ⟨hf, ?_⟩
    split at h
    · rename_i ha
      unfold State.cycle at h
      split at h
      · rename_i hp
        cases he : exec (decodeWord s.fetchWord) s with
        | next u =>
          rw [he] at h
          injection h with h
          exact Or.inr (Or.inl ⟨ha, hp, u, rfl, h.symm⟩)
        | fault r => rw [he] at h; cases h
        | refused r => rw [he] at h; cases h
      · injection h with h
        exact Or.inl ⟨ha, by omega, h.symm⟩
    · rename_i ha
      injection h with h
      exact Or.inr (Or.inr ⟨ha, h.symm⟩)

/-- A tick touches the timers and, when the sound timer is then 0, the tone and the calls (R126). -/
theorem State.tick_eq (s : State) :
    s.tick = { s with DT := countDown s.DT, ST := countDown s.ST, env := s.tick.env } ∧
      s.tick.env = if countDown s.ST = 0 then s.env.audioOff else s.env := by
  by_cases h : countDown s.ST = 0
  · have e : s.tick = ((s.setDT (countDown s.DT)).setST (countDown s.ST)).setEnv s.env.audioOff := if_pos h
    rw [e, if_pos h]
    exact ⟨rfl, rfl⟩
  · have e : s.tick = (s.setDT (countDown s.DT)).setST (countDown s.ST) := if_neg h
    rw [e, if_neg h]
    exact ⟨rfl, rfl⟩

theorem countDown_toNat (t : Byte) : (countDown t).toNat = t.toNat - 1 := by
  unfold countDown
  split
  · rename_i h
    have := t.isLt
    rw [BitVec.toNat_sub_of_le]
    · rfl
    · rw [BitVec.le_def]; exact h
  · omega

end Sys2Proof.Machine
end

