-- ==== Sys2Proof/Tests/Slice0.lean ====
section
/-! SUPPORT. The model's own tests: refused ill-formed terms, every row's decoding from a word written out from the spec's encoding,
single steps from 95_test_vectors, and a witness for the hypotheses of every obligation that has some. -/

namespace Sys2Proof.Tests

open Sys2Proof.Machine

/-! ### WellFormed refuses what is no word's instruction (30_encoding R53, R55 to R57, R60) -/

theorem test_wf_sys_cls : Instr.wellFormed (.sys 0x0E0) = false := by decide

theorem test_wf_sys_ret : Instr.wellFormed (.sys 0x0EE) = false := by decide

theorem test_wf_sys_other : Instr.wellFormed (.sys 0x0E1) = true := by decide

theorem test_wf_unlisted8_listed : Instr.wellFormed (.unlisted8 1 2 0xE) = false := by decide

theorem test_wf_unlisted8_free : Instr.wellFormed (.unlisted8 1 2 0x8) = true := by decide

theorem test_wf_unlistedE_listed : Instr.wellFormed (.unlistedE 1 0xA1) = false := by decide

theorem test_wf_unlistedE_free : Instr.wellFormed (.unlistedE 1 0x00) = true := by decide

theorem test_wf_unlistedF_listed : Instr.wellFormed (.unlistedF 1 0x65) = false := by decide

theorem test_wf_unlistedF_free : Instr.wellFormed (.unlistedF 1 0x75) = true := by decide

/-! ### Decoding: one word per row, written out bit by bit from 30_encoding R48, R59 -/

theorem test_decode_cls : decodeWord 0b0000_0000_1110_0000 = .cls := by decide

theorem test_decode_ret : decodeWord 0b0000_0000_1110_1110 = .ret := by decide

theorem test_decode_sys : decodeWord 0b0000_0001_0010_0011 = .sys 0x123 := by decide

theorem test_decode_jp : decodeWord 0b0001_1010_1011_1100 = .jp 0xABC := by decide

theorem test_decode_call : decodeWord 0b0010_0011_0000_0000 = .call 0x300 := by decide

theorem test_decode_seImm : decodeWord 0b0011_0010_0001_0101 = .seImm 2 0x15 := by decide

theorem test_decode_sneImm : decodeWord 0b0100_0010_0001_0101 = .sneImm 2 0x15 := by decide

theorem test_decode_seReg : decodeWord 0b0101_1010_1011_0011 = .seReg 0xA 0xB 3 := by decide

theorem test_decode_ldImm : decodeWord 0b0110_1010_0100_0010 = .ldImm 0xA 0x42 := by decide

theorem test_decode_addImm : decodeWord 0b0111_0011_0000_0011 = .addImm 3 0x03 := by decide

theorem test_decode_ldReg : decodeWord 0b1000_0000_0001_0000 = .ldReg 0 1 := by decide

theorem test_decode_orReg : decodeWord 0b1000_1111_0001_0001 = .orReg 0xF 1 := by decide

theorem test_decode_andReg : decodeWord 0b1000_0000_0001_0010 = .andReg 0 1 := by decide

theorem test_decode_xorReg : decodeWord 0b1000_0010_0010_0011 = .xorReg 2 2 := by decide

theorem test_decode_addReg : decodeWord 0b1000_0000_1111_0100 = .addReg 0 0xF := by decide

theorem test_decode_sub : decodeWord 0b1000_0000_0001_0101 = .sub 0 1 := by decide

theorem test_decode_shr : decodeWord 0b1000_0011_0010_0110 = .shr 3 2 := by decide

theorem test_decode_subn : decodeWord 0b1000_0100_0100_0111 = .subn 4 4 := by decide

theorem test_decode_shl : decodeWord 0b1000_1111_0010_1110 = .shl 0xF 2 := by decide

theorem test_decode_unlisted8 : decodeWord 0b1000_0000_0000_1111 = .unlisted8 0 0 0xF := by decide

theorem test_decode_sneReg : decodeWord 0b1001_0000_0001_0111 = .sneReg 0 1 7 := by decide

theorem test_decode_ldI : decodeWord 0b1010_0010_1111_0000 = .ldI 0x2F0 := by decide

theorem test_decode_jpV0 : decodeWord 0b1011_0101_1111_1110 = .jpV0 0x5FE := by decide

theorem test_decode_rnd : decodeWord 0b1100_0011_0000_1111 = .rnd 3 0x0F := by decide

theorem test_decode_drw : decodeWord 0b1101_0000_0001_0101 = .drw 0 1 5 := by decide

theorem test_decode_skp : decodeWord 0b1110_0101_1001_1110 = .skp 5 := by decide

theorem test_decode_sknp : decodeWord 0b1110_0101_1010_0001 = .sknp 5 := by decide

theorem test_decode_unlistedE : decodeWord 0b1110_0000_0000_0000 = .unlistedE 0 0 := by decide

theorem test_decode_ldVxDT : decodeWord 0b1111_0010_0000_0111 = .ldVxDT 2 := by decide

theorem test_decode_ldVxK : decodeWord 0b1111_0011_0000_1010 = .ldVxK 3 := by decide

theorem test_decode_ldDTVx : decodeWord 0b1111_0001_0001_0101 = .ldDTVx 1 := by decide

theorem test_decode_ldSTVx : decodeWord 0b1111_0100_0001_1000 = .ldSTVx 4 := by decide

theorem test_decode_addIVx : decodeWord 0b1111_0010_0001_1110 = .addIVx 2 := by decide

theorem test_decode_ldFVx : decodeWord 0b1111_0000_0010_1001 = .ldFVx 0 := by decide

theorem test_decode_ldBVx : decodeWord 0b1111_0000_0011_0011 = .ldBVx 0 := by decide

theorem test_decode_ldIVx : decodeWord 0b1111_0010_0101_0101 = .ldIVx 2 := by decide

theorem test_decode_ldVxI : decodeWord 0b1111_0001_0110_0101 = .ldVxI 1 := by decide

theorem test_decode_unlistedF : decodeWord 0b1111_0000_0111_0101 = .unlistedF 0 0x75 := by decide

/-- High byte first (20_memory R30). -/
theorem test_decode_bytes : decodeBytes [0x61, 0x0A, 0x80] = .ok (.ldImm 1 0x0A, [0x80]) := by rfl

/-- One byte is no instruction (30_encoding R47). -/
theorem test_decode_truncated : decodeBytes [0x61] = .error .truncated := by rfl

theorem test_decode_table_word : decodeTableWord 16 0x610A = some (.ldImm 1 0x0A) := by decide

/-- 1792, 4064 and 3952 unlisted words (R55 to R57) come from 7, 254 and 247 selectors. -/
theorem test_listed_counts : Instr.listed8.length = 9 ∧ Instr.listedE.length = 2 ∧ Instr.listedF.length = 9 := by decide

/-! ### Single steps from 95_test_vectors -/

/-- The reset state with some registers set. -/
def regs (l : List (Reg × Byte)) : State := l.foldl (fun s c => s.setV c.1 c.2) State.reset

/-- The same with bytes in memory from an address, and I there. -/
def withBytes (s : State) (a : Word) (bs : List Byte) : State :=
  { s with mem := Memory.writeFrom s.mem a.toNat bs, I := a }

/-- What one step running the word `w` leaves of a state, seen through `f`. -/
def after (s : State) (w : Nat) {α : Type} (f : State → α) : Option α :=
  match step (s.withFetchWord 16 w) with
  | .next t => some (f t)
  | .fault _ => none
  | .refused _ => none

/-- The cause and `info` of a state's fault record, with its word. -/
def faultOf (s : State) : Option (FaultCause × Word × Option Word) := s.fault.map (fun r => (r.cause, r.info, r.word))

/-- F-1: the word at 0x0FFE can be fetched. -/
theorem test_fetch_last_word : after { State.reset with pc := 0xFFE } 0x1200 (·.pc) = some 0x200 := by decide

/-- F-2. -/
theorem test_fetch_past_end : (match ({ State.reset with pc := 0xFFF, env := { State.reset.env with schedule := [.cycle] } } : State) |> step with
    | .next t => some (faultOf t, t.pc) | _ => none) = some (some (.fetchOutOfRange, 0xFFF, none), 0xFFF) := by decide

/-- F-4. -/
theorem test_fetch_odd : after { State.reset with pc := 0x201 } 0x6007 (fun t => (t.getV 0, t.pc)) = some (0x07, 0x203) := by decide

/-- C-1. -/
theorem test_cls : after { State.reset with env := (State.reset.env.displayToggle ⟨3, 4⟩).2 } 0x00E0
    (fun t => (t.env.pixel ⟨3, 4⟩, t.pc)) = some (false, 0x202) := by decide

/-- C-2. -/
theorem test_ret : after { State.reset with pc := 0x400, sp := 2, stack := (State.reset.stack.set 0 0x0206).set 1 0x0312 } 0x00EE
    (fun t => (t.pc, t.sp, t.stack[1])) = some (0x0312, 1, 0x0312) := by decide

/-- C-3. -/
theorem test_ret_empty : after { State.reset with pc := 0x300 } 0x00EE (fun t => (faultOf t, t.pc)) =
    some (some (.stackUnderflow, 0x300, some 0x00EE), 0x300) := by decide

/-- C-5: not CLS. -/
theorem test_sys : after State.reset 0x00E1 (fun t => (t.pc, t.env.calls)) = some (0x202, []) := by decide

/-- C-9: an odd target. -/
theorem test_jp : after State.reset 0x1333 (·.pc) = some 0x333 := by decide

/-- C-12. -/
theorem test_call : after { State.reset with sp := 15 } 0x2300 (fun t => (t.stack[15], t.sp, t.pc)) = some (0x0202, 16, 0x300) := by decide

/-- C-13. -/
theorem test_call_full : after { State.reset with sp := 16 } 0x2300 (fun t => (faultOf t, t.sp, t.pc)) =
    some (some (.stackOverflow, 0x200, some 0x2300), 16, 0x200) := by decide

/-- S-1, S-2. -/
theorem test_se_imm : after (regs [(2, 0x15)]) 0x3215 (·.pc) = some 0x204 ∧ after (regs [(2, 0x14)]) 0x3215 (·.pc) = some 0x202 := by decide

/-- S-3, S-4. -/
theorem test_sne_imm : after (regs [(2, 0x15)]) 0x4215 (·.pc) = some 0x202 ∧ after (regs [(2, 0x14)]) 0x4215 (·.pc) = some 0x204 := by decide

/-- S-7: n is ignored. -/
theorem test_se_reg : after (regs [(0, 1), (1, 1)]) 0x501F (·.pc) = some 0x204 := by decide

/-- S-8, S-6. -/
theorem test_sne_reg : after (regs [(0, 1), (1, 2)]) 0x9017 (·.pc) = some 0x204 ∧ after State.reset 0x9330 (·.pc) = some 0x202 := by decide

/-- A-2. -/
theorem test_ld_imm : after State.reset 0x6F07 (·.getV 0xF) = some 0x07 := by decide

/-- A-3: no carry flag. -/
theorem test_add_imm : after (regs [(3, 0xFF)]) 0x7301 (fun t => (t.getV 3, t.getV 0xF)) = some (0, 0) := by decide

/-- A-6. -/
theorem test_ld_reg : after (regs [(1, 0x9C)]) 0x8010 (·.getV 0) = some 0x9C := by decide

/-- A-7, A-8. -/
theorem test_or : after (regs [(0xF, 1), (0, 0x10)]) 0x80F1 (fun t => (t.getV 0, t.getV 0xF)) = some (0x11, 0) ∧
    after (regs [(1, 0x33), (0xF, 0x44)]) 0x8F11 (·.getV 0xF) = some 0 := by decide

/-- A-9. -/
theorem test_and : after (regs [(0, 0x0C), (1, 0x0A)]) 0x8012 (·.getV 0) = some 0x08 := by decide

/-- A-10. -/
theorem test_xor : after (regs [(2, 0x5A), (0xF, 1)]) 0x8223 (fun t => (t.getV 2, t.getV 0xF)) = some (0, 0) := by decide

/-- A-13. -/
theorem test_add_carry : after (regs [(0, 0xFF), (1, 0x01)]) 0x8014 (fun t => (t.getV 0, t.getV 0xF)) = some (0, 1) := by decide

/-- A-15. -/
theorem test_add_into_vf : after (regs [(0xF, 0xFF), (0, 0x02)]) 0x8F04 (·.getV 0xF) = some 1 := by decide

/-- A-18, A-17. -/
theorem test_sub_borrow : after (regs [(1, 1)]) 0x8015 (fun t => (t.getV 0, t.getV 0xF)) = some (0xFF, 0) ∧
    after (regs [(0, 7), (1, 7)]) 0x8015 (fun t => (t.getV 0, t.getV 0xF)) = some (0, 1) := by decide

/-- A-19. -/
theorem test_sub_into_vf : after (regs [(0xF, 5), (1, 7)]) 0x8F15 (·.getV 0xF) = some 0 := by decide

/-- A-20, A-23. -/
theorem test_subn : after (regs [(0, 5), (1, 2)]) 0x8017 (fun t => (t.getV 0, t.getV 0xF)) = some (0xFD, 0) ∧
    after (regs [(0xF, 1), (0, 3)]) 0x8F07 (·.getV 0xF) = some 1 := by decide

/-- A-26, A-27, A-28, both settings of SHIFT_ORDER. -/
theorem test_shr_orders : (((regs [(0, 5)]).setShift .textOrder (· >>> 1) shiftedOutRight 0xF 0).getV 0xF = 0x02 ∧
    ((regs [(0, 5)]).setShift .snapshotFlagLast (· >>> 1) shiftedOutRight 0xF 0).getV 0xF = 0x01) ∧
    (((regs [(0xF, 5)]).setShift .textOrder (· >>> 1) shiftedOutRight 0 0xF).getV 0 = 0x00 ∧
    ((regs [(0xF, 5)]).setShift .snapshotFlagLast (· >>> 1) shiftedOutRight 0 0xF).getV 0 = 0x02) ∧
    (((regs [(0xF, 5)]).setShift .textOrder (· >>> 1) shiftedOutRight 0xF 0xF).getV 0xF = 0x00 ∧
    ((regs [(0xF, 5)]).setShift .snapshotFlagLast (· >>> 1) shiftedOutRight 0xF 0xF).getV 0xF = 0x01) := by decide

/-- A-30, A-32, A-34, both settings of SHIFT_ORDER. -/
theorem test_shl_orders : (((regs [(1, 0x81)]).setShift .textOrder (· <<< 1) shiftedOutLeft 0 1).getV 0 = 0x02 ∧
    ((regs [(1, 0x81)]).setShift .snapshotFlagLast (· <<< 1) shiftedOutLeft 0 1).getV 0xF = 0x01) ∧
    (((regs [(0, 0xC1)]).setShift .textOrder (· <<< 1) shiftedOutLeft 0xF 0).getV 0xF = 0x82 ∧
    ((regs [(0, 0xC1)]).setShift .snapshotFlagLast (· <<< 1) shiftedOutLeft 0xF 0).getV 0xF = 0x01) ∧
    (((regs [(0xF, 0x81)]).setShift .textOrder (· <<< 1) shiftedOutLeft 0xF 0xF).getV 0xF = 0x02 ∧
    ((regs [(0xF, 0x81)]).setShift .snapshotFlagLast (· <<< 1) shiftedOutLeft 0xF 0xF).getV 0xF = 0x01) := by decide

/-- A-35, K-11, M-17: both settings of UNLISTED_SUBOP. -/
theorem test_unlisted : ∀ i ∈ [Instr.unlisted8 0 1 8, .unlistedE 0 0, .unlistedF 0 0x75],
    State.reset.runUnlisted i = State.reset.raiseIn i .undefinedOpcode 0x200 ∨ State.reset.runUnlisted i = State.reset.advance := by
  intro i _
  unfold State.runUnlisted
  cases Config.unlistedSubop
  · exact Or.inl rfl
  · exact Or.inr rfl

/-- J-1. -/
theorem test_ld_i : after { State.reset with I := 0x1234 } 0xA2F0 (·.I) = some 0x02F0 := by decide

/-- J-3, J-4. -/
theorem test_jp_v0 : after (regs [(0, 0xFF)]) 0xBFFF (·.pc) = some 0x10FE ∧ after (regs [(0, 1), (5, 0x99)]) 0xB5FE (·.pc) = some 0x5FF := by decide

/-- J-6: one call even with mask 0. -/
theorem test_rnd_zero_mask : after State.reset 0xC300 (fun t => t.env.calls.length) = some 1 := by decide

/-- D-1. -/
theorem test_drw_clips_right : after (withBytes (regs [(0, 60)]) 0x300 [0xFF]) 0xD011
    (fun t => (t.getV 0xF, t.env.calls.length, t.env.pixel ⟨60, 0⟩, t.env.pixel ⟨63, 0⟩, t.env.pixel ⟨0, 0⟩)) =
    some (0, 4, true, true, false) := by decide

/-- D-2. -/
theorem test_drw_origin_wraps : after (withBytes (regs [(0, 64), (1, 40)]) 0x300 [0x80]) 0xD011 (·.env.calls) =
    some [.displayToggle ⟨0, 8⟩ false] := by decide

/-- D-7. -/
theorem test_drw_collides : after (withBytes { State.reset with env := (State.reset.env.displayToggle ⟨0, 0⟩).2 } 0x300 [0xC0]) 0xD011
    (fun t => (t.getV 0xF, t.env.pixel ⟨0, 0⟩, t.env.pixel ⟨1, 0⟩)) = some (1, false, true) := by decide

/-- D-4. -/
theorem test_drw_faults : after { State.reset with I := 0xFFF } 0xD012 (fun t => (faultOf t, t.env.calls)) =
    some (some (.memOutOfRange, 0x1000, some 0xD012), []) := by decide

/-- D-5, D-6. -/
theorem test_drw_clipped_row_unchecked : after (withBytes (regs [(1, 31)]) 0xFFF [0x80]) 0xD012 (·.env.calls) = some [.displayToggle ⟨0, 31⟩ false] ∧
    after { regs [(0xF, 1)] with I := 0xFFFF } 0xD010 (fun t => (t.getV 0xF, faultOf t)) = some (0, none) := by decide

/-- D-8. -/
theorem test_drw_coordinate_in_vf : after (withBytes (regs [(0xF, 5)]) 0x300 [0x80]) 0xDF11 (fun t => (t.getV 0xF, t.env.calls)) =
    some (0, [.displayToggle ⟨5, 0⟩ false]) := by decide

/-- K-1, K-2: whichever the answer, pc follows it. -/
theorem test_skp : after (regs [(5, 0x0A)]) 0xE59E (fun t => decide (t.pc = 0x204)) = some (Config.keyDown 0 0xA) := by
  cases h : Config.keyDown 0 0xA
  · show some (decide ((State.skipIf _ (Config.keyDown 0 0xA == true)).pc = 0x204)) = _
    rw [h]; rfl
  · show some (decide ((State.skipIf _ (Config.keyDown 0 0xA == true)).pc = 0x204)) = _
    rw [h]; rfl

/-- K-5. -/
theorem test_skp_faults : after (regs [(5, 0x10)]) 0xE59E (fun t => (faultOf t, t.env.calls)) =
    some (some (.keyOutOfRange, 0x10, some 0xE59E), []) := by decide

/-- K-6. -/
theorem test_sknp_faults : after (regs [(5, 0xFF)]) 0xE5A1 (fun t => (faultOf t, t.env.calls)) =
    some (some (.keyOutOfRange, 0xFF, some 0xE5A1), []) := by decide

/-- T-1. -/
theorem test_ld_vx_dt : after { State.reset with DT := 0x3C } 0xF207 (·.getV 2) = some 0x3C := by decide

/-- T-2. -/
theorem test_ld_dt_vx : after (regs [(1, 0x3C)]) 0xF115 (·.DT) = some 0x3C := by decide

/-- T-3, T-4. -/
theorem test_ld_st_vx : after (regs [(4, 5)]) 0xF418 (fun t => (t.ST, t.env.calls)) = some (5, [.audioOn]) ∧
    after { regs [(4, 5)] with ST := 3 } 0xF418 (fun t => (t.ST, t.env.calls)) = some (5, []) := by decide

/-- T-5, T-6. -/
theorem test_ld_st_vx_zero : after { State.reset with ST := 3 } 0xF418 (fun t => (t.ST, t.env.calls)) = some (0, []) ∧
    after State.reset 0xF418 (fun t => (t.ST, t.env.calls)) = some (0, []) := by decide

/-- T-8, T-9. -/
theorem test_tick : ({ State.reset with DT := 5, ST := 2 } : State).tick = { State.reset with DT := 4, ST := 1 } ∧
    (let t := ({ State.reset with DT := 1, ST := 1 } : State).tick; (t.DT, t.ST, t.env.calls) = (0, 0, [.audioOff])) := by decide

/-- T-7, T-10. -/
theorem test_tick_at_zero : State.reset.tick.env.calls = [.audioOff] ∧ ({ State.reset with ST := 0xFF } : State).tick.ST = 0xFE := by decide

/-- M-1, M-2. -/
theorem test_add_i_vx : after { regs [(0, 1)] with I := 0x0FFF } 0xF01E (fun t => (t.I, t.getV 0xF)) = some (0x1000, 0) ∧
    after { regs [(0, 1)] with I := 0xFFFF } 0xF01E (·.I) = some 0 := by decide

/-- M-4, M-5. -/
theorem test_ld_f_vx : after (regs [(0, 0x1A)]) 0xF029 (·.I) = some 0x82 ∧ after (regs [(0, 0x0F)]) 0xF029 (·.I) = some 0x9B := by decide

/-- L1-6, M-9. -/
theorem test_ld_b_vx : after { regs [(0, 0xFF)] with I := 0x300 } 0xF033
    (fun t => ([0x300, 0x301, 0x302, 0x303].map (Memory.read t.mem), t.I)) = some ([2, 5, 5, 0], 0x300) := by decide

/-- M-10. -/
theorem test_ld_b_vx_faults : after { regs [(0, 0xFF)] with I := 0xFFE } 0xF033 (fun t => (faultOf t, Memory.read t.mem 0xFFE)) =
    some (some (.memOutOfRange, 0x1000, some 0xF033), 0) := by decide

/-- L1-7, M-18: the word overwrites itself. -/
theorem test_ld_i_vx : after { regs [(0, 0x12)] with I := 0x200 } 0xF155
    (fun t => ([0x200, 0x201].map (Memory.read t.mem), t.I, t.pc)) = some ([0x12, 0x00], 0x202, 0x202) := by decide

/-- M-14: nothing is written. -/
theorem test_ld_i_vx_faults : after { regs [(0, 1)] with I := 0x0FF1 } 0xFF55 (fun t => (faultOf t, t.I, Memory.read t.mem 0xFF1)) =
    some (some (.memOutOfRange, 0x1000, some 0xFF55), 0x0FF1, 0) := by decide

/-- M-15, its ends. -/
theorem test_ld_vx_i : after (withBytes State.reset 0xFF0 ((List.range 16).map (fun k => BitVec.ofNat 8 (k + 16)))) 0xFF65
    (fun t => (t.getV 0, t.getV 0xF, t.I)) = some (0x10, 0x1F, 0x1000) := by decide

/-- M-16. -/
theorem test_ld_vx_i_faults : after { State.reset with I := 0xFFFF } 0xF165 faultOf = some (some (.memOutOfRange, 0xFFFF, some 0xF165)) := by decide

/-- L1-9: whichever the answer, pc stays at A exactly when it is the sentinel. -/
theorem test_ld_vx_k : after { State.reset with pc := 0x210 } 0xF30A (fun t => decide (t.pc = 0x210)) = some (decide (Config.currentKey 0 = 16)) := by
  by_cases h : Config.currentKey 0 = 16
  · show some (decide ((if Config.currentKey 0 = noKey then _ else _ : State).pc = 0x210)) = _
    rw [if_pos (show Config.currentKey 0 = noKey from h), decide_eq_true h]; rfl
  · show some (decide ((if Config.currentKey 0 = noKey then _ else _ : State).pc = 0x210)) = _
    rw [if_neg (show ¬ Config.currentKey 0 = noKey from h), decide_eq_false h]; rfl

/-- R144: an image of three bytes, the last in the low half of no word. -/
theorem test_load_reads_back : (State.reset.loadProgram [0x60, 0x05, 0x61]).map (fun t => ([0x200, 0x201, 0x202, 0x203].map (Memory.read t.mem))) =
    some [0x60, 0x05, 0x61, 0x00] := by decide

/-! ### Witnesses: each hypothesis of an obligation is met, at the ends of its range -/

/-- The reset state with the host's next choices given. -/
def withTurns (l : List Agent) : State := { State.reset with env := { State.reset.env with schedule := l } }

/-- One well-formed term per check. -/
theorem witness_EncodeThenDecode : (Instr.sys 0x0EF).wellFormed ∧ (Instr.unlisted8 0 1 0xF).wellFormed ∧ (Instr.unlistedE 0 0x9F).wellFormed ∧
    (Instr.unlistedF 0 0x66).wellFormed := by decide

/-- F-1, at the last address a fetch may have. -/
theorem witness_StepRunsDecodedInstruction : let s := ({ withTurns [.cycle] with pc := 0xFFE } : State).readyToFetch 0x1200
    s.fault = none ∧ s.env.nextAgent = .cycle ∧ s.pc.toNat ≤ 0x0FFE ∧
      decodeWord (Memory.read s.mem s.pc.toNat ++ Memory.read s.mem (s.pc.toNat + 1)) = .jp 0x200 ∧
      ∃ t, exec (.jp 0x200) s = .next t := ⟨by decide, by decide, by decide, by decide, _, rfl⟩

/-- F-2, at the first address too high. -/
theorem witness_FetchPastEndFaults : let s : State := { withTurns [.cycle] with pc := 0xFFF }
    s.fault = none ∧ s.env.nextAgent = .cycle ∧ 0x0FFE < s.pc.toNat := by decide

/-- A state with a record. -/
theorem witness_HaltedMachineHasNoStep : (State.reset.raiseFault .stackUnderflow (some 0x00EE) 0x200).fault =
    some { cause := .stackUnderflow, pc := 0x200, word := some 0x00EE, info := 0x200 } := by decide

/-- A tick that reaches 0 and one that does not. -/
theorem witness_TickCountsDownAndSilences : (withTurns [.tick]).fault = none ∧ (withTurns [.tick]).env.nextAgent = .tick ∧
      ({ withTurns [.tick] with ST := 1 } : State).tick.ST = 0 ∧ ({ withTurns [.tick] with ST := 2 } : State).tick.ST ≠ 0 := by decide

/-- One tick and a sound timer of 1. -/
theorem witness_TicksCountToZero : 0 < 1 ∧ ({ State.reset with ST := 1 } : State).ST.toNat ≤ 1 := by decide

/-- The last fault-free operand of each check. -/
theorem witness_InstructionsTouchOnlyWhatTablesList : expectedFault { State.reset with I := 0xFF0 } (.ldVxI 0xF) = none ∧ expectedFault { State.reset with I := 0xFF0 } (.ldIVx 0xF) = none ∧
      expectedFault { State.reset with I := 0xFFD } (.ldBVx 0) = none ∧ expectedFault { State.reset with sp := 15 } (.call 0) = none ∧
      expectedFault { State.reset with sp := 1 } .ret = none ∧ expectedFault (regs [(0, 15)]) (.skp 0) = none ∧
      expectedFault (regs [(0, 15)]) (.sknp 0) = none ∧ expectedFault { State.reset with I := 0xFF1 } (.drw 0 1 0xF) = none ∧
      expectedFault State.reset (.sys 0) = none := by decide

/-- Both arms: the first faulting operand of each check. -/
theorem witness_FaultsExactlyWhenListed : (expectedFault { State.reset with I := 0xFF1 } (.ldVxI 0xF) = some (.memOutOfRange, 0x1000) ∧
      expectedFault { State.reset with I := 0xFFE } (.ldBVx 0) = some (.memOutOfRange, 0x1000)) ∧
      expectedFault { State.reset with sp := 16 } (.call 0) = some (.stackOverflow, 0x200) ∧
      expectedFault State.reset .ret = some (.stackUnderflow, 0x200) ∧
      expectedFault (regs [(0, 16)]) (.skp 0) = some (.keyOutOfRange, 16) := by decide

/-- A step. -/
theorem witness_ToneNeverReachesCore : ∃ t, step (withTurns [.cycle]) = .next t := ⟨_, rfl⟩

/-- A canonical memory and a step that stores. -/
theorem witness_CanonicalMemoryIsKept : let s := (withTurns [.cycle]).readyToFetch 0xF033
    s.MemoryCanonical ∧ ∃ t, step s = .next t := ⟨by decide, _, rfl⟩

/-- A state at the bounds, and a step from it. -/
theorem witness_PcAndStackBoundsAreKept : let s : State := { withTurns [.cycle] with pc := 0x10FE, stack := Vector.replicate 16 0x1000 }
    s.PcBounded ∧ ∃ t, step s = .next t := ⟨by decide, _, rfl⟩

/-- A state with a call made, and a step from it. -/
theorem witness_TracePortIsNeverCalled : let s : State := { withTurns [.cycle] with env := { (withTurns [.cycle]).env with calls := [.audioOff] } }
    s.TraceUnused ∧ ∃ t, step s = .next t := ⟨by decide, _, rfl⟩

/-- The longest image taken and the shortest refused. -/
theorem witness_LoadProgramCopiesOrRefuses : (List.replicate 0x0E00 (0 : Byte)).length ≤ 0x0E00 ∧ 0x0E00 < (List.replicate 0x0E01 (0 : Byte)).length := by
  rw [List.length_replicate, List.length_replicate]; omega

/-- Both clauses, next to each other. -/
theorem witness_CallPushesAdvancedPc : ({ State.reset with sp := 15 } : State).sp.val < 16 ∧ ({ State.reset with sp := 16 } : State).sp.val = 16 := by decide

/-- Both clauses, next to each other. -/
theorem witness_RetPopsNewestEntry : 0 < ({ State.reset with sp := 1 } : State).sp.val ∧ State.reset.sp.val = 0 := by decide

/-- The last call that fits, returned from at once. -/
theorem witness_RetResumesAfterCall : ∃ t, ({ State.reset with sp := 15 } : State).sp.val < 16 ∧ exec (.call 0x300) { State.reset with sp := 15 } = .next t ∧
      t.sp = t.sp ∧ t.stack = t.stack := ⟨_, by decide, rfl, rfl, rfl⟩

/-- A destination that is not VF, for the logic, ALU and shift statements, with each choice of source. -/
theorem witness_ResultRegister : ((0xE : Reg) ≠ 0xF ∧ (0xE : Reg) ≠ 0xF) ∧ ((0xF : Reg) = 0xF ∧ (0 : Reg) ≠ 0xF) ∧ ((0 : Reg) ≠ 0xF ∧ (0xF : Reg) = 0xF) ∧
      ((0xF : Reg) = 0xF ∧ (0xF : Reg) = 0xF) := by decide

/-- One word of each space. -/
theorem witness_UnlistedWordsFollowParameter : (∃ x y n, Instr.unlisted8 0 1 8 = .unlisted8 x y n) ∧ (∃ x nn, Instr.unlistedE 0 0 = .unlistedE x nn) ∧
      (∃ x nn, Instr.unlistedF 0 0x75 = .unlistedF x nn) := ⟨⟨_, _, _, rfl⟩, ⟨_, _, rfl⟩, ⟨_, _, rfl⟩⟩

/-- D-5 at the last byte of memory; D-7 for a covered pixel that is on; a blank screen for none. -/
theorem witness_DrwFlipsSpritePixels : drawInRange (withBytes (regs [(1, 31)]) 0xFFF [0x80]) 1 2 ∧
      (let s := withBytes { State.reset with env := (State.reset.env.displayToggle ⟨0, 0⟩).2 } 0x300 [0xC0];
        drawInRange s 1 1 ∧ spriteCovers s 0 1 1 ⟨0, 0⟩ = true ∧ s.env.pixel ⟨0, 0⟩ = true) ∧
      (∀ p, spriteCovers State.reset 0 1 0 p = true → State.reset.env.pixel p = false) ∧ drawInRange State.reset 1 0 := by
  refine ⟨by decide, by decide, fun p _ => ?_, by decide⟩
  simp [State.reset, Env.pixel, FrameBuffer.blank]

/-- Row 31, whose sprite keeps one row, at the last byte of memory. -/
theorem witness_DrwTogglesInOrder : drawInRange { regs [(1, 31)] with I := 0xFFF } 1 15 := by decide

/-- L1-8: a set bit on a blank screen. -/
theorem witness_DrwTwiceRestoresDisplay : let s := withBytes State.reset 0x300 [0x80]
    (0 : Reg) ≠ 0xF ∧ (1 : Reg) ≠ 0xF ∧ drawInRange s 1 1 ∧ (∃ t, exec (.drw 0 1 1) s = .next t) ∧
      spriteCovers s 0 1 1 ⟨0, 0⟩ = true ∧ s.env.pixel ⟨0, 0⟩ = false := ⟨by decide, by decide, by decide, ⟨_, rfl⟩, by decide, by decide⟩

/-- The highest key. -/
theorem witness_KeySkipsFollowPortAnswer : ((regs [(5, 15)]).getV 5).toNat ≤ 15 := by decide

/-- A start from silence, with the tone off. -/
theorem witness_TimerInstructions : ((regs [(4, 5)]).getV 4 ≠ 0 ∧ (regs [(4, 5)]).ST = 0) ∧ (regs [(4, 5)]).env.tone = false := by decide

/-- The highest I that fits. -/
theorem witness_BcdStoresDigits : ({ State.reset with I := 0xFFD } : State).I.toNat + 3 ≤ 0x1000 := by decide

/-- The highest I that fits sixteen registers. -/
theorem witness_StoreBlockWritesRegisters : ({ State.reset with I := 0xFF0 } : State).I.toNat + (0xF : Reg).toNat + 1 ≤ 0x1000 := by decide

/-- The highest I that fits one register. -/
theorem witness_LoadBlockReadsRegisters : ({ State.reset with I := 0xFFF } : State).I.toNat + (0 : Reg).toNat + 1 ≤ 0x1000 := by decide

/-- A store of two registers at the end of memory, and the state that loads them back. -/
theorem witness_StoreThenLoadRoundTrip : ∃ t, ({ State.reset with I := 0xFFE } : State).I.toNat + (1 : Reg).toNat + 1 ≤ 0x1000 ∧
      exec (.ldIVx 1) { State.reset with I := 0xFFE } = .next t ∧ (t.setI 0xFFE).mem = t.mem ∧ (t.setI 0xFFE).I = 0xFFE := ⟨_, by decide, rfl, rfl, rfl⟩

/-- The first and the last word of sixteen registers stored at the end of memory, and digits stored there. -/
theorem witness_StoreIsSeenByNextFetch : ({ State.reset with I := 0xFF0 } : State).I.toNat + (0xF : Reg).toNat + 1 ≤ 0x1000 ∧
      (0 : Reg).toNat < (0xF : Reg).toNat ∧ (0xE : Reg).toNat < (0xF : Reg).toNat ∧
      (∃ t, exec (.ldIVx 0xF) { State.reset with I := 0xFF0 } = .next t) ∧
      ({ State.reset with I := 0xFFD } : State).I.toNat + 3 ≤ 0x1000 ∧
      ∃ t, exec (.ldBVx 0) { State.reset with I := 0xFFD } = .next t :=
  ⟨by decide, by decide, by decide, ⟨_, rfl⟩, by decide, _, rfl⟩

/-- C-10, before a cycle and before a tick. -/
theorem witness_ParkedStaysParked : ((withTurns [.cycle]).readyToFetch 0x1200).Parked ∧ ((withTurns [.cycle]).readyToFetch 0x1200).env.nextAgent = .cycle ∧
      (let s : State := { (State.reset.readyToFetch 0x1200) with env := (withTurns [.tick]).env };
        s.Parked ∧ s.env.nextAgent = .tick) := by decide

end Sys2Proof.Tests
end

section
/-! PROOFS. What each instruction leaves: one rule per operation of the state and of the ports that says it keeps a frame, and from
them the frame of every instruction that takes no fault (10_state R15 to R26, 60_exceptions R129). -/

namespace Sys2Proof.Machine

/-! ### The environment's part of a frame -/

/-- The part of `Frame` that speaks of the environment: `e'` is `e` but for what `w` names. -/
def EnvFrame (w : Touched) (e e' : Env) : Prop :=
  (w.display = false → e'.fb = e.fb) ∧
  (w.tone = false → e'.tone = e.tone) ∧
  (w.calls = false → e'.calls = e.calls ∧ e'.draws = e.draws) ∧
  e'.schedule = e.schedule

variable {w : Touched} {e e' : Env} {s t : State}

theorem EnvFrame.refl (w : Touched) (e : Env) : EnvFrame w e e := ⟨fun _ => rfl, fun _ => rfl, fun _ => ⟨rfl, rfl⟩, rfl⟩

theorem EnvFrame.displayClear (h : EnvFrame w e e') (hd : w.display = true) (hc : w.calls = true) :
    EnvFrame w e e'.displayClear := by
  obtain ⟨_, htone, _, hsched⟩ := h
  exact ⟨by simp [hd], htone, by simp [hc], hsched⟩

theorem EnvFrame.displayToggle (h : EnvFrame w e e') (hd : w.display = true) (hc : w.calls = true) (p : Pixel) :
    EnvFrame w e (e'.displayToggle p).2 := by
  obtain ⟨_, htone, _, hsched⟩ := h
  exact ⟨by simp [hd], htone, by simp [hc], hsched⟩

theorem EnvFrame.togglePixels (h : EnvFrame w e e') (hd : w.display = true) (hc : w.calls = true) (ps : List Pixel) :
    EnvFrame w e (Env.togglePixels ps e').2 := by
  induction ps generalizing e' with
  | nil => exact h
  | cons p ps ih => exact ih (h.displayToggle hd hc p)

theorem EnvFrame.isDown (h : EnvFrame w e e') (hc : w.calls = true) (key : Nibble) : EnvFrame w e (e'.isDown key).2 := by
  obtain ⟨hfb, htone, _, hsched⟩ := h
  exact ⟨hfb, htone, by simp [hc], hsched⟩

theorem EnvFrame.askKey (h : EnvFrame w e e') (hc : w.calls = true) : EnvFrame w e e'.askKey.2 := by
  obtain ⟨hfb, htone, _, hsched⟩ := h
  exact ⟨hfb, htone, by simp [hc], hsched⟩

theorem EnvFrame.randomByte (h : EnvFrame w e e') (hc : w.calls = true) : EnvFrame w e e'.randomByte.2 := by
  obtain ⟨hfb, htone, _, hsched⟩ := h
  exact ⟨hfb, htone, by simp [hc], hsched⟩

theorem EnvFrame.audioOn (h : EnvFrame w e e') (ht : w.tone = true) (hc : w.calls = true) : EnvFrame w e e'.audioOn := by
  obtain ⟨hfb, _, _, hsched⟩ := h
  exact ⟨hfb, by simp [ht], by simp [hc], hsched⟩

/-! ### The rules of the state's operations -/

theorem Frame.advance (w : Touched) (s : State) : Frame w s s.advance :=
  ⟨fun _ _ => rfl, fun _ => rfl, fun _ => rfl, fun _ => ⟨rfl, rfl⟩, fun _ => rfl, fun _ => rfl, fun _ _ => rfl, rfl,
    EnvFrame.refl w s.env⟩

theorem Frame.setV (h : Frame w s t) {x : Reg} (hx : x ∈ w.regs) (v : Byte) : Frame w s (t.setV x v) := by
  obtain ⟨hregs, rest⟩ := h
  refine ⟨fun r hr => ?_, rest⟩
  have hne : r ≠ x := fun hrx => hr (hrx ▸ hx)
  rw [State.getV_setV, if_neg hne, hregs r hr]

theorem Frame.setResultThenFlag (h : Frame w s t) {x : Reg} (hx : x ∈ w.regs) (hf : flagReg ∈ w.regs) (v f : Byte) :
    Frame w s (t.setResultThenFlag x v f) := (h.setV hx v).setV hf f

theorem Frame.setShift (h : Frame w s t) {x : Reg} (hx : x ∈ w.regs) (hf : flagReg ∈ w.regs) (order : ShiftOrder)
    (result flag : Byte → Byte) (y : Reg) : Frame w s (t.setShift order result flag x y) := by
  cases order with
  | textOrder => exact (h.setV hf _).setV hx _
  | snapshotFlagLast => exact h.setResultThenFlag hx hf _ _

theorem Frame.setI (h : Frame w s t) (hw : w.index = true) (v : Word) : Frame w s (t.setI v) := by
  obtain ⟨hregs, _, rest⟩ := h
  exact ⟨hregs, by simp [hw], rest⟩

theorem Frame.setPc (h : Frame w s t) (hw : w.pc = true) (v : Word) : Frame w s (t.setPc v) := by
  obtain ⟨hregs, hI, _, rest⟩ := h
  exact ⟨hregs, hI, by simp [hw], rest⟩

theorem Frame.skipIf (h : Frame w s t) (hw : w.pc = true) (c : Bool) : Frame w s (t.skipIf c) := by
  cases c with
  | false => exact h
  | true => exact h.setPc hw _

theorem Frame.rewind (h : Frame w s t) (hw : w.pc = true) : Frame w s t.rewind := h.setPc hw _

theorem Frame.setStack (h : Frame w s t) (hw : w.stack = true) (entries : Vector Word 16) (n : Fin 17) :
    Frame w s { t with stack := entries, sp := n } := by
  obtain ⟨hregs, hI, hpc, _, rest⟩ := h
  exact ⟨hregs, hI, hpc, by simp [hw], rest⟩

theorem Frame.setDT (h : Frame w s t) (hw : w.delay = true) (v : Byte) : Frame w s (t.setDT v) := by
  obtain ⟨hregs, hI, hpc, hstack, _, rest⟩ := h
  exact ⟨hregs, hI, hpc, hstack, by simp [hw], rest⟩

theorem Frame.setST (h : Frame w s t) (hw : w.sound = true) (v : Byte) : Frame w s (t.setST v) := by
  obtain ⟨hregs, hI, hpc, hstack, hDT, _, rest⟩ := h
  exact ⟨hregs, hI, hpc, hstack, hDT, by simp [hw], rest⟩

theorem Frame.writeMem (h : Frame w s t) {a : Word} (ha : a.toNat ∈ w.bytes) (v : Byte) : Frame w s (t.writeMem a v) := by
  obtain ⟨hregs, hI, hpc, hstack, hDT, hST, hmem, rest⟩ := h
  refine ⟨hregs, hI, hpc, hstack, hDT, hST, fun b hb => ?_, rest⟩
  have hne : b ≠ a.toNat := fun hba => hb (hba ▸ ha)
  rw [State.writeMem_mem, Memory.read_write_of_ne _ _ _ _ hne, hmem b hb]

theorem Frame.setEnv (h : Frame w s t) (he : EnvFrame w s.env e) : Frame w s (t.setEnv e) := by
  obtain ⟨hregs, hI, hpc, hstack, hDT, hST, hmem, hfault, _⟩ := h
  exact ⟨hregs, hI, hpc, hstack, hDT, hST, hmem, hfault, he⟩

/-! ### Block transfers -/

/-- The addresses that a meaning checks are those its frame names. -/
theorem access_mem_dataAddrs (s : State) {k n : Nat} (h : k < n) : (s.I + BitVec.ofNat 16 k).toNat ∈ dataAddrs s n :=
  List.mem_map_of_mem (List.mem_map_of_mem (List.mem_range.2 h))

theorem Frame.storeBytes (vs : List Byte) {a : Word} (h : Frame w s t)
    (ha : ∀ k < vs.length, (a + BitVec.ofNat 16 k).toNat ∈ w.bytes) : Frame w s (t.storeBytes a vs) := by
  induction vs generalizing t a with
  | nil => exact h
  | cons v vs ih =>
    have hfirst : a.toNat ∈ w.bytes := by simpa using ha 0 (by simp)
    refine ih (h.writeMem hfirst v) fun k hk => ?_
    have hnext := ha (k + 1) (by simpa using hk)
    rwa [Nat.add_comm k 1, BitVec.ofNat_add, ← BitVec.add_assoc] at hnext

theorem Frame.storeRegs (n : Nat) (h : Frame w s t) (hw : w.index = true)
    (ha : ∀ k < n, (t.I + BitVec.ofNat 16 k).toNat ∈ w.bytes) : Frame w s (t.storeRegs n) := by
  induction n with
  | zero => exact h
  | succ n ih =>
    have hI : (t.storeRegs n).I = t.I + BitVec.ofNat 16 n := by rw [State.storeRegs_eq]
    have hn := ih fun k hk => ha k (by omega)
    exact (hn.writeMem (hI ▸ ha n (by omega)) _).setI hw _

theorem Frame.loadRegs (n : Nat) (h : Frame w s t) (hw : w.index = true)
    (hr : ∀ k < n, BitVec.ofNat 4 k ∈ w.regs) : Frame w s (t.loadRegs n) := by
  induction n with
  | zero => exact h
  | succ n ih => exact ((ih fun k hk => hr k (by omega)).setV (hr n (by omega)) _).setI hw _

end Sys2Proof.Machine
end

section
/-! PROOFS. The two outcomes of every instruction: with a fault due, the start state with the record set; with none, a next state
within the frame the tables give (10_state, 60_exceptions R118). -/

namespace Sys2Proof.Machine

/-! ### The table of faults and the checks of the meanings -/

theorem drawCount_le (s : State) (y : Reg) (n : Nibble) : drawCount s y n ≤ 16 := by
  have := n.isLt
  simp only [drawCount]
  omega

theorem rangeFault_eq_none (s : State) {n : Nat} (hn : n ≤ 16) : rangeFault s n = none ↔ firstBad s.I n = none := by
  rw [rangeFault_eq s n hn, Option.map_eq_none_iff]

theorem rangeFault_eq_some (s : State) {n : Nat} (hn : n ≤ 16) (c : FaultCause) (a : Word) :
    rangeFault s n = some (c, a) ↔ firstBad s.I n = some a ∧ .memOutOfRange = c := by
  simp [rangeFault_eq s n hn]

theorem expectedFault_ret_eq_none (s : State) : expectedFault s .ret = none ↔ 0 < s.sp.val := by
  simp [expectedFault, Nat.pos_iff_ne_zero]

theorem expectedFault_call_eq_none (s : State) (nnn : Addr12) : expectedFault s (.call nnn) = none ↔ s.sp.val < 16 := by
  have := s.sp.isLt
  simp only [expectedFault, ite_eq_right_iff, reduceCtorEq, imp_false]
  omega

/-- Where the table lists a fault for the instruction, the meaning raises that fault. -/
theorem exec_of_expectedFault_eq_some {i : Instr} {s : State} {c : FaultCause} {info : Word}
    (h : expectedFault s i = some (c, info)) : exec i s = .next (s.raiseIn i c info) := by
  cases i <;> simp only [expectedFault, reduceCtorEq, Option.ite_none_right_eq_some, Option.some.injEq, Prod.mk.injEq] at h
  case ret =>
    obtain ⟨h0, rfl, rfl⟩ := h
    simp only [exec, execRet, State.pop?_empty s.advance h0]
  case call nnn =>
    obtain ⟨h16, rfl, rfl⟩ := h
    simp only [exec, execCall, State.push?_full s.advance _ h16]
  case unlisted8 | unlistedE | unlistedF =>
    obtain ⟨hf, rfl, rfl⟩ := h
    simp only [exec, execUnlisted8, execUnlistedE, execUnlistedF, State.runUnlisted, hf]
  case skp x | sknp x =>
    obtain ⟨hkey, rfl, rfl⟩ := h
    simp only [exec, execSkp, execSknp, State.keySkip, if_pos hkey]
  case drw x y n =>
    obtain ⟨hbad, rfl⟩ := (rangeFault_eq_some s (drawCount_le s y n) c info).1 h
    simp only [exec, execDrw, hbad]
  case ldBVx x =>
    obtain ⟨hbad, rfl⟩ := (rangeFault_eq_some s (by omega) c info).1 h
    simp only [exec, execLdBVx, hbad]
  case ldIVx x | ldVxI x =>
    obtain ⟨hbad, rfl⟩ := (rangeFault_eq_some s x.isLt c info).1 h
    simp only [exec, execLdIVx, execLdVxI, hbad]

/-! ### What the instructions that can fault answer when they do not -/

section NoFault

variable {s : State}

theorem exec_ret_of_pos (h : 0 < s.sp.val) :
    exec .ret s = .next { s with
      pc := s.stack[s.sp.val - 1]'(by omega)
      sp := ⟨s.sp.val - 1, by omega⟩ } := by
  simp only [exec, execRet, State.pop?_of_pos s.advance h]
  rfl

theorem exec_call_of_lt (nnn : Addr12) (h : s.sp.val < 16) :
    exec (.call nnn) s = .next { s with
      pc := addrWord nnn
      stack := s.stack.set s.sp.val (s.pc + 2) h
      sp := ⟨s.sp.val + 1, by omega⟩ } := by
  simp only [exec, execCall, State.push?_of_lt s.advance _ h]
  rfl

theorem State.runUnlisted_of_nop (i : Instr) (h : Config.unlistedSubop ≠ .fault) : s.runUnlisted i = s.advance := by
  unfold State.runUnlisted
  split
  · contradiction
  · rfl

theorem State.keySkip_of_le (i : Instr) {x : Reg} (wanted : Bool) (h : (s.getV x).toNat ≤ 15) :
    s.keySkip i x wanted =
      (s.advance.setEnv (s.env.isDown (keyOf (s.getV x))).2).skipIf ((s.env.isDown (keyOf (s.getV x))).1 == wanted) :=
  if_neg (by omega)

theorem State.keySkip_of_gt (i : Instr) {x : Reg} (wanted : Bool) (h : 15 < (s.getV x).toNat) :
    s.keySkip i x wanted = s.raiseIn i .keyOutOfRange (byteWord (s.getV x)) := if_pos h

theorem exec_drw_of_inRange {x y : Reg} {n : Nibble} (h : firstBad s.I (drawCount s y n) = none) :
    exec (.drw x y n) s = .next ((s.advance.setEnv (Env.togglePixels (spritePixels s x y n) s.env).2).setV flagReg
      (if (Env.togglePixels (spritePixels s x y n) s.env).1 then 1 else 0)) := by
  simp only [exec, execDrw, h]

theorem exec_ldBVx_of_inRange {x : Reg} (h : firstBad s.I 3 = none) :
    exec (.ldBVx x) s = .next (s.advance.storeBytes s.I (bcdDigits (s.getV x))) := by
  simp only [exec, execLdBVx, h]

theorem exec_ldIVx_of_inRange {x : Reg} (h : firstBad s.I (x.toNat + 1) = none) :
    exec (.ldIVx x) s = .next (s.advance.storeRegs (x.toNat + 1)) := by
  simp only [exec, execLdIVx, h]

theorem exec_ldVxI_of_inRange {x : Reg} (h : firstBad s.I (x.toNat + 1) = none) :
    exec (.ldVxI x) s = .next (s.advance.loadRegs (x.toNat + 1)) := by
  simp only [exec, execLdVxI, h]

/-! ### The two answers of the key wait and of the sound timer's load -/

theorem exec_ldVxK_of_noKey (x : Reg) (h : s.env.askKey.1 = noKey) :
    exec (.ldVxK x) s = .next (s.advance.setEnv s.env.askKey.2).rewind := by
  simp only [exec, execLdVxK, if_pos h]

theorem exec_ldVxK_of_key (x : Reg) (h : s.env.askKey.1 ≠ noKey) :
    exec (.ldVxK x) s =
      .next ((s.advance.setEnv s.env.askKey.2.askKey.2).setV x (keyByte s.env.askKey.2.askKey.1)) := by
  simp only [exec, execLdVxK, if_neg h]

theorem exec_ldSTVx_of_start {x : Reg} (h : 0 < (s.getV x).toNat ∧ s.ST = 0) :
    exec (.ldSTVx x) s = .next ((s.advance.setST (s.getV x)).setEnv s.env.audioOn) := by
  simp only [exec, execLdSTVx, if_pos h, State.setST_env, State.advance_env]

theorem exec_ldSTVx_of_not_start {x : Reg} (h : ¬(0 < (s.getV x).toNat ∧ s.ST = 0)) :
    exec (.ldSTVx x) s = .next (s.advance.setST (s.getV x)) := by
  simp only [exec, execLdSTVx, if_neg h]

/-! ### The frame of every instruction -/

/-- A skip on a key's state within the range the port takes, in either sense. -/
theorem State.keySkip_frame {w : Touched} (i : Instr) {x : Reg} (wanted : Bool) (h : (s.getV x).toNat ≤ 15)
    (hpc : w.pc = true) (hc : w.calls = true) : Frame w s (s.keySkip i x wanted) := by
  rw [State.keySkip_of_le i wanted h]
  exact ((Frame.advance w s).setEnv ((EnvFrame.refl w s.env).isDown hc _)).skipIf hpc _

theorem State.runUnlisted_frame {w : Touched} (i : Instr) (h : Config.unlistedSubop ≠ .fault) :
    Frame w s (s.runUnlisted i) := by
  rw [State.runUnlisted_of_nop i h]
  exact Frame.advance w s

theorem exec_ldVxK_frame (x : Reg) (s : State) :
    ∃ t, exec (.ldVxK x) s = .next t ∧ Frame (touched s (.ldVxK x)) s t := by
  have hstart := Frame.advance (touched s (.ldVxK x)) s
  have hask := (EnvFrame.refl (touched s (.ldVxK x)) s.env).askKey rfl
  by_cases h : s.env.askKey.1 = noKey
  · exact ⟨_, exec_ldVxK_of_noKey x h, (hstart.setEnv hask).rewind rfl⟩
  · exact ⟨_, exec_ldVxK_of_key x h, (hstart.setEnv (hask.askKey rfl)).setV (List.mem_singleton_self x) _⟩

theorem exec_ldSTVx_frame (x : Reg) (s : State) :
    ∃ t, exec (.ldSTVx x) s = .next t ∧ Frame (touched s (.ldSTVx x)) s t := by
  have hset := (Frame.advance (touched s (.ldSTVx x)) s).setST rfl (s.getV x)
  by_cases h : 0 < (s.getV x).toNat ∧ s.ST = 0
  · exact ⟨_, exec_ldSTVx_of_start h, hset.setEnv ((EnvFrame.refl _ s.env).audioOn rfl rfl)⟩
  · exact ⟨_, exec_ldSTVx_of_not_start h, hset⟩

/-- An instruction with no fault due completes within the frame of its row of the tables. -/
theorem exec_frame (i : Instr) (s : State) (h : expectedFault s i = none) :
    ∃ t, exec i s = .next t ∧ Frame (touched s i) s t := by
  have hstart := Frame.advance (touched s i) s
  have henv := EnvFrame.refl (touched s i) s.env
  have hflag : ∀ x : Reg, flagReg ∈ [x, 0xF] := by simp [flagReg]
  cases i with
  | sys nnn => exact ⟨_, rfl, hstart⟩
  | cls => exact ⟨_, rfl, hstart.setEnv (henv.displayClear rfl rfl)⟩
  | ret =>
    exact ⟨_, exec_ret_of_pos ((expectedFault_ret_eq_none s).1 h), (hstart.setStack rfl _ _).setPc rfl _⟩
  | call nnn =>
    exact ⟨_, exec_call_of_lt nnn ((expectedFault_call_eq_none s nnn).1 h), (hstart.setStack rfl _ _).setPc rfl _⟩
  | jp | jpV0 => exact ⟨_, rfl, hstart.setPc rfl _⟩
  | seImm | sneImm | seReg | sneReg => exact ⟨_, rfl, hstart.skipIf rfl _⟩
  | ldImm x | addImm x | ldReg x | ldVxDT x => exact ⟨_, rfl, hstart.setV (List.mem_singleton_self x) _⟩
  | orReg x | andReg x | xorReg x | addReg x | sub x =>
    exact ⟨_, rfl, hstart.setResultThenFlag List.mem_cons_self (hflag x) _ _⟩
  | subn x => exact ⟨_, rfl, (hstart.setV List.mem_cons_self _).setV (hflag x) _⟩
  | shr x y | shl x y => exact ⟨_, rfl, hstart.setShift List.mem_cons_self (hflag x) _ _ _ y⟩
  | unlisted8 | unlistedE | unlistedF =>
    exact ⟨_, rfl, State.runUnlisted_frame _ (by simpa [expectedFault] using h)⟩
  | skp x | sknp x => exact ⟨_, rfl, State.keySkip_frame _ _ (by simpa [expectedFault] using h) rfl rfl⟩
  | ldI | addIVx | ldFVx => exact ⟨_, rfl, hstart.setI rfl _⟩
  | rnd x => exact ⟨_, rfl, (hstart.setEnv (henv.randomByte rfl)).setV (List.mem_singleton_self x) _⟩
  | drw x y n =>
    have hok := (rangeFault_eq_none s (drawCount_le s y n)).1 h
    exact ⟨_, exec_drw_of_inRange hok,
      (hstart.setEnv (henv.togglePixels rfl rfl _)).setV (List.mem_singleton_self flagReg) _⟩
  | ldVxK x => exact exec_ldVxK_frame x s
  | ldDTVx x => exact ⟨_, rfl, hstart.setDT rfl _⟩
  | ldSTVx x => exact exec_ldSTVx_frame x s
  | ldBVx x =>
    have hok := (rangeFault_eq_none s (by omega)).1 h
    exact ⟨_, exec_ldBVx_of_inRange hok, hstart.storeBytes _ fun k hk => access_mem_dataAddrs s hk⟩
  | ldIVx x =>
    have hok := (rangeFault_eq_none s x.isLt).1 h
    exact ⟨_, exec_ldIVx_of_inRange hok, hstart.storeRegs _ rfl fun k hk => access_mem_dataAddrs s hk⟩
  | ldVxI x =>
    have hok := (rangeFault_eq_none s x.isLt).1 h
    exact ⟨_, exec_ldVxI_of_inRange hok,
      hstart.loadRegs _ rfl fun k hk => List.mem_map_of_mem (List.mem_range.2 hk)⟩

end NoFault

/-- Settles O11, by the rule of each operation that the instruction's meaning is made of. -/
theorem instructionsTouchOnlyWhatTablesList : Obligations.InstructionsTouchOnlyWhatTablesList := exec_frame

end Sys2Proof.Machine
end

section
/-! PROOFS. A step from its parts, and the bounds that every step keeps on pc and on the stack entries (10_state R19). -/

namespace Sys2Proof.Machine

/-! ### A step from its parts -/

section StepOf

variable {s : State}

theorem step_of_fetchFault (hf : s.fault = none) (ha : s.env.nextAgent = .cycle) (hp : 0x0FFE < s.pc.toNat) :
    step s = .next (s.raiseFault .fetchOutOfRange none s.pc).spendTurn := by
  simp only [step, hf, ha, State.cycle, if_neg (Nat.not_le.2 hp), spendTurnAfter]

theorem step_of_cycle (hf : s.fault = none) (ha : s.env.nextAgent = .cycle) (hp : s.pc.toNat ≤ 0x0FFE) :
    step s = spendTurnAfter (exec (decodeWord s.fetchWord) s) := by
  simp only [step, hf, ha, State.cycle, if_pos hp]

theorem step_of_tick (hf : s.fault = none) (ha : s.env.nextAgent = .tick) : step s = .next s.tick.spendTurn := by
  simp only [step, hf, ha]

end StepOf

/-! ### The bounds of pc and of the stack (R19) -/

/-- The bounds speak of pc and the stack entries alone. -/
theorem State.PcBounded.of_eq {s t : State} (h : s.PcBounded) (hpc : t.pc = s.pc) (hstack : t.stack = s.stack) :
    t.PcBounded := by
  simpa only [State.PcBounded, hpc, hstack] using h

/-- From an address where a word can be fetched, pc plus 2 is a return address of R19. -/
theorem pc_add_two_le {pc : Word} (h : pc.toNat ≤ 0x0FFE) : (pc + 2).toNat ≤ 0x1000 := by
  have e : (pc + 2).toNat = pc.toNat + 2 := access_toNat pc 2 (by omega)
  omega

theorem pc_add_four_le {pc : Word} (h : pc.toNat ≤ 0x0FFE) : (pc + 2 + 2).toNat ≤ 0x10FE := by
  have h2 := pc_add_two_le h
  have e : (pc + 2 + 2).toNat = (pc + 2).toNat + 2 := access_toNat (pc + 2) 2 (by omega)
  omega

theorem addrWord_le (nnn : Addr12) : (addrWord nnn).toNat ≤ 0x0FFF := by
  have := nnn.isLt
  rw [addrWord, BitVec.toNat_setWidth]
  omega

theorem indexedTarget_le (nnn : Addr12) (v : Byte) : (indexedTarget nnn v).toNat ≤ 0x10FE := by
  have hn := addrWord_le nnn
  have hv : (byteWord v).toNat ≤ 0xFF := by
    have := v.isLt
    rw [byteWord, BitVec.toNat_setWidth]
    omega
  rw [indexedTarget, BitVec.toNat_add]
  omega

theorem skipIf_pc_le {t : State} {pc : Word} (h : pc.toNat ≤ 0x0FFE) (ht : t.pc = pc + 2) (c : Bool) :
    (t.skipIf c).pc.toNat ≤ 0x10FE := by
  have h2 := pc_add_two_le h
  rw [State.skipIf_pc, ht]
  cases c with
  | false => simp only [Bool.false_eq_true, if_false]; omega
  | true => exact pc_add_four_le h

theorem State.keySkip_pc_le {s : State} (h : s.pc.toNat ≤ 0x0FFE) (i : Instr) (x : Reg) (wanted : Bool) :
    (s.keySkip i x wanted).pc.toNat ≤ 0x10FE := by
  unfold State.keySkip
  split
  · rw [State.raiseIn_pc]; omega
  · exact skipIf_pc_le h rfl _

/-- An instruction fetched inside memory, with its stack entries bounded, leaves pc at most 0x10FE: the largest value is the
target of `Bnnn`. -/
theorem exec_pc_le {i : Instr} {s t : State} (hp : s.pc.toNat ≤ 0x0FFE) (hb : s.PcBounded)
    (hno : expectedFault s i = none) (h : exec i s = .next t) : t.pc.toNat ≤ 0x10FE := by
  obtain ⟨u, hu, -, -, hpc, -⟩ := exec_frame i s hno
  obtain rfl : u = t := by simpa using hu.symm.trans h
  have h2 := pc_add_two_le hp
  by_cases hw : (touched s i).pc = false
  · rw [hpc hw]; omega
  · clear hpc hu
    cases i <;> simp only [touched, not_true_eq_false] at hw
    case ret =>
      have hsp := (expectedFault_ret_eq_none s).1 hno
      rw [exec_ret_of_pos hsp] at h
      cases h
      have := hb.2 ⟨s.sp.val - 1, by omega⟩
      simp only at this ⊢
      omega
    case call nnn =>
      rw [exec_call_of_lt nnn ((expectedFault_call_eq_none s nnn).1 hno)] at h
      cases h
      have := addrWord_le nnn
      simp only
      omega
    case jp nnn =>
      cases h
      have := addrWord_le nnn
      rw [State.setPc_pc]
      omega
    case jpV0 nnn => cases h; exact indexedTarget_le nnn _
    case seImm | sneImm | seReg | sneReg => cases h; exact skipIf_pc_le hp rfl _
    case skp | sknp => cases h; exact State.keySkip_pc_le hp _ _ _
    case ldVxK x =>
      by_cases hk : s.env.askKey.1 = noKey
      · rw [exec_ldVxK_of_noKey x hk] at h
        cases h
        rw [State.rewind_pc, State.setEnv_pc, State.advance_pc, BitVec.add_sub_cancel]
        omega
      · rw [exec_ldVxK_of_key x hk] at h
        cases h
        rw [State.setV_pc, State.setEnv_pc, State.advance_pc]
        omega

/-- The stack's entries after an instruction: as they were, or with the address A + 2 put at one place. -/
theorem exec_stack {i : Instr} {s t : State} (hno : expectedFault s i = none) (h : exec i s = .next t) :
    t.stack = s.stack ∨ ∃ (k : Nat) (hk : k < 16), t.stack = s.stack.set k (s.pc + 2) hk := by
  obtain ⟨u, hu, -, -, -, hstack, -⟩ := exec_frame i s hno
  obtain rfl : u = t := by simpa using hu.symm.trans h
  by_cases hw : (touched s i).stack = false
  · exact .inl (hstack hw).2
  · clear hstack hu
    cases i <;> simp only [touched, not_true_eq_false] at hw
    case ret =>
      have hsp := (expectedFault_ret_eq_none s).1 hno
      rw [exec_ret_of_pos hsp] at h
      cases h
      exact .inl rfl
    case call nnn =>
      have hsp := (expectedFault_call_eq_none s nnn).1 hno
      rw [exec_call_of_lt nnn hsp] at h
      cases h
      exact .inr ⟨_, hsp, rfl⟩

theorem exec_keeps_PcBounded {i : Instr} {s t : State} (hp : s.pc.toNat ≤ 0x0FFE) (hb : s.PcBounded)
    (h : exec i s = .next t) : t.PcBounded := by
  cases hf : expectedFault s i with
  | some f =>
    rw [exec_of_expectedFault_eq_some (c := f.1) (info := f.2) hf] at h
    cases h
    exact hb.of_eq rfl rfl
  | none =>
    refine ⟨exec_pc_le hp hb hf h, fun k => ?_⟩
    obtain hsame | ⟨j, hj, hset⟩ := exec_stack hf h
    · simpa only [hsame] using hb.2 k
    · have h2 := pc_add_two_le hp
      simp only [hset, Vector.getElem_set]
      split
      · exact h2
      · exact hb.2 k

theorem step_keeps_PcBounded {s t : State} (hb : s.PcBounded) (h : step s = .next t) : t.PcBounded := by
  obtain ⟨-, ⟨-, -, rfl⟩ | ⟨-, hp, u, hu, rfl⟩ | ⟨-, rfl⟩⟩ := step_cases h
  · exact hb.of_eq rfl rfl
  · exact (exec_keeps_PcBounded hp hb hu).of_eq rfl rfl
  · rw [(State.tick_eq s).1]
    exact hb.of_eq rfl rfl

/-- Settles O14: a fetch is allowed up to 0x0FFE only, and from there no instruction goes above 0x10FE. -/
theorem pcAndStackBoundsAreKept : Obligations.PcAndStackBoundsAreKept := fun _ _ => step_keeps_PcBounded

end Sys2Proof.Machine
end

section
/-! PROOFS. The tone reaches nothing of the core and no other part of the environment (10_state R24, 60_exceptions R134): every
operation on a state with the tone set apart gives what it gives without, with the tone set apart. -/

namespace Sys2Proof.Machine

/-! ### The operations on a state with the tone set apart -/

theorem State.skipIf_withTone (s : State) (b c : Bool) : (s.withTone b).skipIf c = (s.skipIf c).withTone b := by
  cases c <;> rfl

theorem State.setShift_withTone (s : State) (b : Bool) (order : ShiftOrder) (result flag : Byte → Byte) (x y : Reg) :
    (s.withTone b).setShift order result flag x y = (s.setShift order result flag x y).withTone b := by
  cases order <;> rfl

theorem State.runUnlisted_withTone (s : State) (b : Bool) (i : Instr) :
    (s.withTone b).runUnlisted i = (s.runUnlisted i).withTone b := by
  unfold State.runUnlisted
  split <;> rfl

theorem State.keySkip_withTone (s : State) (b : Bool) (i : Instr) (x : Reg) (wanted : Bool) :
    (s.withTone b).keySkip i x wanted = (s.keySkip i x wanted).withTone b := by
  by_cases h : (s.getV x).toNat ≤ 15
  · have hs := State.keySkip_of_le i wanted h
    have hb := State.keySkip_of_le (s := s.withTone b) i wanted h
    rw [hs, hb, ← State.skipIf_withTone]
    rfl
  · have hs := State.keySkip_of_gt i wanted (Nat.lt_of_not_le h)
    have hb := State.keySkip_of_gt (s := s.withTone b) i wanted (Nat.lt_of_not_le h)
    rw [hs, hb]
    rfl

theorem spritePixels_withTone (s : State) (b : Bool) (x y : Reg) (n : Nibble) :
    spritePixels (s.withTone b) x y n = spritePixels s x y n := rfl

theorem State.storeBytes_withTone (vs : List Byte) (s : State) (b : Bool) (a : Word) :
    (s.withTone b).storeBytes a vs = (s.storeBytes a vs).withTone b := by
  induction vs generalizing s a with
  | nil => rfl
  | cons v vs ih => exact ih (s.writeMem a v) (a + 1)

theorem State.storeRegs_withTone (s : State) (b : Bool) (n : Nat) :
    (s.withTone b).storeRegs n = (s.storeRegs n).withTone b := by
  induction n with
  | zero => rfl
  | succ n ih => simp only [State.storeRegs, ih]; rfl

theorem State.loadRegs_withTone (s : State) (b : Bool) (n : Nat) :
    (s.withTone b).loadRegs n = (s.loadRegs n).withTone b := by
  induction n with
  | zero => rfl
  | succ n ih => simp only [State.loadRegs, ih]; rfl

theorem Env.togglePixels_withTone (ps : List Pixel) (e : Env) (b : Bool) :
    Env.togglePixels ps { e with tone := b } =
      ((Env.togglePixels ps e).1, { (Env.togglePixels ps e).2 with tone := b }) := by
  induction ps generalizing e with
  | nil => rfl
  | cons p ps ih =>
    have hrest := ih (e.displayToggle p).2
    exact congrArg (fun r : Bool × Env => (e.pixel p || r.1, r.2)) hrest

theorem Env.spendTurn_withTone (e : Env) (b : Bool) :
    Env.spendTurn { e with tone := b } = { e.spendTurn with tone := b } := by
  obtain ⟨fb, tone, calls, draws, schedule⟩ := e
  cases schedule <;> rfl

theorem State.spendTurn_withTone (s : State) (b : Bool) : (s.withTone b).spendTurn = s.spendTurn.withTone b :=
  congrArg s.setEnv (Env.spendTurn_withTone s.env b)

/-- A tick silences whatever the tone was, or leaves the one set. -/
theorem State.tick_withTone (s : State) (b : Bool) : ∃ c, (s.withTone b).tick = s.tick.withTone c := by
  by_cases h : countDown s.ST = 0
  · have hs : s.tick = _ := if_pos h
    have hb : (s.withTone b).tick = _ := if_pos h
    exact ⟨false, by rw [hs, hb]; rfl⟩
  · have hs : s.tick = _ := if_neg h
    have hb : (s.withTone b).tick = _ := if_neg h
    exact ⟨b, by rw [hs, hb]; rfl⟩

/-! ### Instructions and steps -/

/-- The fault table does not read the tone. -/
theorem expectedFault_withTone (s : State) (b : Bool) (i : Instr) : expectedFault (s.withTone b) i = expectedFault s i := by
  cases i <;> rfl

/-- With the tone set apart an instruction answers the same next state with some tone: the one set, or after `Fx18` the one that
`audio.on()` leaves. -/
theorem exec_withTone {i : Instr} {s t : State} (b : Bool) (h : exec i s = .next t) :
    ∃ c, exec i (s.withTone b) = .next (t.withTone c) := by
  cases hf : expectedFault s i with
  | some f =>
    rw [exec_of_expectedFault_eq_some (c := f.1) (info := f.2) hf] at h
    cases h
    exact ⟨b, exec_of_expectedFault_eq_some ((expectedFault_withTone s b i).trans hf)⟩
  | none =>
    cases i with
    | cls | sys | jp | ldImm | addImm | ldReg | orReg | andReg | xorReg | addReg | sub | subn | ldI | jpV0 | rnd
    | ldVxDT | ldDTVx | addIVx | ldFVx =>
      cases h
      exact ⟨b, rfl⟩
    | ret =>
      have hsp := (expectedFault_ret_eq_none s).1 hf
      rw [exec_ret_of_pos hsp] at h
      cases h
      exact ⟨b, exec_ret_of_pos (s := s.withTone b) hsp⟩
    | call nnn =>
      have hsp := (expectedFault_call_eq_none s nnn).1 hf
      rw [exec_call_of_lt nnn hsp] at h
      cases h
      exact ⟨b, exec_call_of_lt (s := s.withTone b) nnn hsp⟩
    | seImm | sneImm | seReg | sneReg =>
      cases h
      exact ⟨b, by rw [← State.skipIf_withTone]; rfl⟩
    | shr | shl =>
      cases h
      exact ⟨b, by rw [← State.setShift_withTone]; rfl⟩
    | unlisted8 | unlistedE | unlistedF =>
      cases h
      exact ⟨b, by rw [← State.runUnlisted_withTone]; rfl⟩
    | skp | sknp =>
      cases h
      exact ⟨b, by rw [← State.keySkip_withTone]; rfl⟩
    | drw x y n =>
      have hok := (rangeFault_eq_none s (drawCount_le s y n)).1 hf
      have htoggled := Env.togglePixels_withTone (spritePixels s x y n) s.env b
      rw [exec_drw_of_inRange hok] at h
      cases h
      refine ⟨b, ?_⟩
      rw [exec_drw_of_inRange (s := s.withTone b) hok, spritePixels_withTone, State.withTone_env, htoggled]
      rfl
    | ldVxK x =>
      by_cases hk : s.env.askKey.1 = noKey
      · rw [exec_ldVxK_of_noKey x hk] at h
        cases h
        exact ⟨b, exec_ldVxK_of_noKey (s := s.withTone b) x hk⟩
      · rw [exec_ldVxK_of_key x hk] at h
        cases h
        exact ⟨b, exec_ldVxK_of_key (s := s.withTone b) x hk⟩
    | ldSTVx x =>
      by_cases hon : 0 < (s.getV x).toNat ∧ s.ST = 0
      · rw [exec_ldSTVx_of_start hon] at h
        cases h
        exact ⟨!b || Config.toneAfterSecondOn s.env.draws, exec_ldSTVx_of_start (s := s.withTone b) hon⟩
      · rw [exec_ldSTVx_of_not_start hon] at h
        cases h
        exact ⟨b, exec_ldSTVx_of_not_start (s := s.withTone b) hon⟩
    | ldBVx x =>
      have hok := (rangeFault_eq_none s (by omega)).1 hf
      rw [exec_ldBVx_of_inRange hok] at h
      cases h
      exact ⟨b, by rw [exec_ldBVx_of_inRange (s := s.withTone b) hok, ← State.storeBytes_withTone]; rfl⟩
    | ldIVx x =>
      have hok := (rangeFault_eq_none s x.isLt).1 hf
      rw [exec_ldIVx_of_inRange hok] at h
      cases h
      exact ⟨b, by rw [exec_ldIVx_of_inRange (s := s.withTone b) hok, ← State.storeRegs_withTone]; rfl⟩
    | ldVxI x =>
      have hok := (rangeFault_eq_none s x.isLt).1 hf
      rw [exec_ldVxI_of_inRange hok] at h
      cases h
      exact ⟨b, by rw [exec_ldVxI_of_inRange (s := s.withTone b) hok, ← State.loadRegs_withTone]; rfl⟩

theorem step_withTone {s t : State} (b : Bool) (h : step s = .next t) :
    ∃ c, step (s.withTone b) = .next (t.withTone c) := by
  obtain ⟨hf, ⟨ha, hp, rfl⟩ | ⟨ha, hp, u, hu, rfl⟩ | ⟨ha, rfl⟩⟩ := step_cases h
  · exact ⟨b, by rw [← State.spendTurn_withTone]; exact step_of_fetchFault (s := s.withTone b) hf ha hp⟩
  · obtain ⟨c, hc⟩ := exec_withTone b hu
    have hstep : step (s.withTone b) = spendTurnAfter (exec (decodeWord s.fetchWord) (s.withTone b)) :=
      step_of_cycle (s := s.withTone b) hf ha hp
    exact ⟨c, by rw [hstep, hc, ← State.spendTurn_withTone]; rfl⟩
  · obtain ⟨c, hc⟩ := State.tick_withTone s b
    exact ⟨c, by rw [step_of_tick (s := s.withTone b) hf ha, hc, State.spendTurn_withTone]⟩

/-- Settles O12: the two steps answer states that differ in the tone alone, so they agree once the tone is set the same. -/
theorem toneNeverReachesCore : Obligations.ToneNeverReachesCore := by
  intro s t b h
  obtain ⟨c, hc⟩ := step_withTone b h
  exact ⟨t.withTone c, hc, State.withTone_withTone t c false⟩

end Sys2Proof.Machine
end

section
/-! PROOFS. The state after reset (10_state R23, 70_reset_and_hazards R142). -/

namespace Sys2Proof.Machine

theorem Memory.resetByte_font (d : Fin 80) : Memory.resetByte (0x050 + d.val) = Config.font d := by
  have hin : 0x050 ≤ 0x050 + d.val ∧ 0x050 + d.val < 0x0A0 := by omega
  simp [Memory.resetByte, hin]

theorem Memory.resetByte_of_not_font {a : Nat} (h : a < 0x050 ∨ 0x0A0 ≤ a) : Memory.resetByte a = 0 :=
  dif_neg (by omega)

theorem State.reset_stack (k : Fin 16) : State.reset.stack[k.val] = 0 := Vector.getElem_replicate _

theorem State.reset_getV (r : Reg) : State.reset.getV r = 0 := Vector.getElem_replicate _

/-- Settles O16, from the reset state's own values. -/
theorem resetMeetsInvariants : Obligations.ResetMeetsInvariants := by
  refine ⟨State.reset_mem_wf, ⟨by decide, fun k => ?_⟩, List.not_mem_nil⟩
  rw [State.reset_stack k]
  decide

/-- Settles O17, component by component: memory lists nothing at reset, so it reads as `Memory.resetByte` says. -/
theorem resetValues : Obligations.ResetValues :=
  ⟨State.reset_getV, rfl, rfl, rfl, State.reset_stack, rfl, rfl, Memory.resetByte_font,
    fun _ ha => Memory.resetByte_of_not_font ha, rfl, fun p => FrameBuffer.blank_get _ _ p.row.isLt p.col.isLt, rfl⟩

end Sys2Proof.Machine
end

section
/-! PROOFS. What an instruction stores (20_memory R26, R31): the consecutive bytes from I that it names, so that every step keeps
the canonical form of memory (log 11). -/

namespace Sys2Proof.Machine

variable {s t : State}

/-! ### What an instruction stores -/

/-- The bytes an instruction that takes no fault stores from I up: the digits of Fx33 (R112), the registers of Fx55 (R113). -/
def storedBytes (s : State) : Instr → List Byte
  | .ldBVx x => bcdDigits (s.getV x)
  | .ldIVx x => s.regBytes (x.toNat + 1)
  | _ => []

theorem expectedFault_ldBVx_eq_none (s : State) (x : Reg) :
    expectedFault s (.ldBVx x) = none ↔ s.I.toNat + 3 ≤ 0x1000 := by
  rw [expectedFault, rangeFault_eq_none s (by omega), firstBad_eq_none s.I 3 (by omega)]
  omega

theorem expectedFault_ldIVx_eq_none (s : State) (x : Reg) :
    expectedFault s (.ldIVx x) = none ↔ s.I.toNat + x.toNat + 1 ≤ 0x1000 := by
  rw [expectedFault, rangeFault_eq_none s x.isLt, firstBad_eq_none s.I _ x.isLt]
  omega

theorem exec_ldBVx_mem {x : Reg} (hI : s.I.toNat + 3 ≤ 0x1000) (h : exec (.ldBVx x) s = .next t) :
    t.mem = Memory.writeFrom s.mem s.I.toNat (bcdDigits (s.getV x)) := by
  rw [exec_ldBVx_of_inRange ((firstBad_eq_none s.I 3 (by omega)).2 (.inr hI))] at h
  cases h
  exact State.storeBytes_mem _ s.advance s.I hI

theorem exec_ldIVx_mem {x : Reg} (hI : s.I.toNat + x.toNat + 1 ≤ 0x1000) (h : exec (.ldIVx x) s = .next t) :
    t.mem = Memory.writeFrom s.mem s.I.toNat (s.regBytes (x.toNat + 1)) := by
  rw [exec_ldIVx_of_inRange ((firstBad_eq_none s.I _ x.isLt).2 (.inr hI))] at h
  cases h
  exact State.storeRegs_mem s.advance _ (.inr hI)

@[simp] theorem State.loadRegs_mem (s : State) (n : Nat) : (s.loadRegs n).mem = s.mem := by rw [State.loadRegs_eq]

/-- Memory after an instruction that takes no fault: the bytes it stores, written from I up, and nothing else. -/
theorem exec_mem {i : Instr} (hno : expectedFault s i = none) (h : exec i s = .next t) :
    t.mem = Memory.writeFrom s.mem s.I.toNat (storedBytes s i) := by
  cases i with
  | ldBVx x => exact exec_ldBVx_mem ((expectedFault_ldBVx_eq_none s x).1 hno) h
  | ldIVx x => exact exec_ldIVx_mem ((expectedFault_ldIVx_eq_none s x).1 hno) h
  | ret =>
    rw [exec_ret_of_pos ((expectedFault_ret_eq_none s).1 hno)] at h
    cases h
    rfl
  | call nnn =>
    rw [exec_call_of_lt nnn ((expectedFault_call_eq_none s nnn).1 hno)] at h
    cases h
    rfl
  | unlisted8 | unlistedE | unlistedF =>
    cases h
    rw [State.runUnlisted_of_nop _ (by simpa [expectedFault] using hno)]
    rfl
  | skp x | sknp x =>
    cases h
    rw [State.keySkip_of_le _ _ (by simpa [expectedFault] using hno), State.skipIf_mem]
    rfl
  | drw x y n =>
    rw [exec_drw_of_inRange ((rangeFault_eq_none s (drawCount_le s y n)).1 hno)] at h
    cases h
    rfl
  | ldVxK x =>
    by_cases hk : s.env.askKey.1 = noKey
    · rw [exec_ldVxK_of_noKey x hk] at h
      cases h
      rfl
    · rw [exec_ldVxK_of_key x hk] at h
      cases h
      rfl
  | ldSTVx x =>
    by_cases hs : 0 < (s.getV x).toNat ∧ s.ST = 0
    · rw [exec_ldSTVx_of_start hs] at h
      cases h
      rfl
    · rw [exec_ldSTVx_of_not_start hs] at h
      cases h
      rfl
  | ldVxI x =>
    rw [exec_ldVxI_of_inRange ((rangeFault_eq_none s x.isLt).1 hno)] at h
    cases h
    exact State.loadRegs_mem s.advance _
  | seImm | sneImm | seReg | sneReg => cases h; exact State.skipIf_mem s.advance _
  | shr x y | shl x y => cases h; exact State.setShift_mem s.advance _ _ _ x y
  | _ => cases h; rfl

/-! ### The canonical form -/

theorem exec_keeps_MemoryCanonical {i : Instr} (hc : s.MemoryCanonical) (h : exec i s = .next t) : t.MemoryCanonical := by
  cases hf : expectedFault s i with
  | some f =>
    rw [exec_of_expectedFault_eq_some (c := f.1) (info := f.2) hf] at h
    cases h
    exact hc
  | none =>
    rw [State.MemoryCanonical, exec_mem hf h]
    exact Memory.wf_writeFrom _ _ _ hc

theorem step_keeps_MemoryCanonical (hc : s.MemoryCanonical) (h : step s = .next t) : t.MemoryCanonical := by
  obtain ⟨-, ⟨-, -, rfl⟩ | ⟨-, -, u, hu, rfl⟩ | ⟨-, rfl⟩⟩ := step_cases h
  · exact hc
  · exact exec_keeps_MemoryCanonical (t := u) hc hu
  · rw [(State.tick_eq s).1]
    exact hc

/-- Settles O13: an instruction changes memory by consecutive writes alone, and each write keeps the form. -/
theorem canonicalMemoryIsKept : Obligations.CanonicalMemoryIsKept := fun _ _ => step_keeps_MemoryCanonical

end Sys2Proof.Machine
end

section
/-! PROOFS. The fetch (20_memory R30, R45, 40_cycle R65 to R67): the word at pc is the two bytes there, so that a step runs the
instruction they decode to, and a stored word is what the next fetch of its address reads. -/

namespace Sys2Proof.Machine

variable {s t : State}

/-- Where a word can be fetched, it is the bytes at pc and one above, the first in the high half (R30). -/
theorem State.fetchWord_eq (hp : s.pc.toNat ≤ 0x0FFE) :
    s.fetchWord = Memory.read s.mem s.pc.toNat ++ Memory.read s.mem (s.pc.toNat + 1) := by
  have hnext : (s.pc + 1).toNat = s.pc.toNat + 1 := access_toNat s.pc 1 (by omega)
  simp only [State.fetchWord, State.readMem, wordOfBytes, hnext]

/-- Settles O5, from the word that the two bytes at pc make. -/
theorem stepRunsDecodedInstruction : Obligations.StepRunsDecodedInstruction := by
  rintro s i hf ha hp rfl
  rw [← State.fetchWord_eq hp]
  refine ⟨step_of_cycle hf ha hp, fun t ht => ⟨?_, Env.spendTurn_eq t.env⟩⟩
  rw [step_of_cycle hf ha hp, ht]
  rfl

/-! ### Fetching what was stored -/

/-- The word fetched at the `k`-th of consecutive bytes written from `a` up: that byte and the next. -/
theorem State.fetchWord_of_writeFrom {m : Memory} {a k : Nat} {vs : List Byte} {pc : Word}
    (hm : t.mem = Memory.writeFrom m a vs) (ha : a + vs.length ≤ 0x1000) (hpc : pc.toNat = a + k)
    (hk : k + 1 < vs.length) : ({ t with pc := pc } : State).fetchWord = vs[k] ++ vs[k + 1] := by
  have hread : ∀ j (hj : j < vs.length), Memory.read t.mem (a + j) = vs[j] := fun j hj => by
    rw [hm, Memory.read_writeFrom vs m a (a + j) ha, dif_pos (by omega)]
    simp only [Nat.add_sub_cancel_left]
  rw [State.fetchWord_eq (show pc.toNat ≤ 0x0FFE by omega), hpc, hread k (by omega), Nat.add_assoc, hread (k + 1) hk]

@[simp] theorem State.length_regBytes (s : State) (n : Nat) : (s.regBytes n).length = n := by simp [State.regBytes]

@[simp] theorem State.getElem_regBytes (s : State) (n k : Nat) (h : k < (s.regBytes n).length) :
    (s.regBytes n)[k] = s.getV (BitVec.ofNat 4 k) := by simp [State.regBytes]

/-- After Fx55 the word at I + r is registers r and r + 1. -/
theorem fetchWord_after_ldIVx {x r : Reg} (hI : s.I.toNat + x.toNat + 1 ≤ 0x1000) (h : exec (.ldIVx x) s = .next t)
    (hr : r.toNat < x.toNat) :
    ({ t with pc := s.I + r.setWidth 16 } : State).fetchWord = s.getV r ++ s.getV (r + 1) := by
  have hpc : (s.I + r.setWidth 16).toNat = s.I.toNat + r.toNat := by
    rw [← BitVec.ofNat_toNat, access_toNat s.I r.toNat (by omega)]
  have hnext : BitVec.ofNat 4 (r.toNat + 1) = r + 1 := by simp [BitVec.ofNat_add]
  rw [State.fetchWord_of_writeFrom (exec_ldIVx_mem hI h) (by rw [State.length_regBytes]; omega) hpc
    (by rw [State.length_regBytes]; omega)]
  simp only [State.getElem_regBytes, hnext, BitVec.ofNat_toNat, BitVec.setWidth_eq]

@[simp] theorem length_bcdDigits (v : Byte) : (bcdDigits v).length = 3 := rfl

/-- The word that two digits make, as a number. -/
theorem toNat_digits_append {a b : Nat} (ha : a < 10) (hb : b < 10) :
    (BitVec.ofNat 8 a ++ BitVec.ofNat 8 b).toNat = a * 256 + b := by
  rw [toNat_append_eq, BitVec.toNat_ofNat, BitVec.toNat_ofNat]
  omega

/-- After Fx33 the word at I is the hundreds and the tens digit, the word at I + 1 the tens and the ones digit. -/
theorem fetchWord_after_ldBVx {x : Reg} (hI : s.I.toNat + 3 ≤ 0x1000) (h : exec (.ldBVx x) s = .next t) :
    ({ t with pc := s.I } : State).fetchWord.toNat = (s.getV x).toNat / 100 * 256 + (s.getV x).toNat / 10 % 10 ∧
      ({ t with pc := s.I + 1 } : State).fetchWord.toNat =
        (s.getV x).toNat / 10 % 10 * 256 + (s.getV x).toNat % 10 := by
  have hv := (s.getV x).isLt
  have hm := exec_ldBVx_mem hI h
  have hpc : (s.I + 1).toNat = s.I.toNat + 1 := access_toNat s.I 1 (by omega)
  constructor
  · rw [State.fetchWord_of_writeFrom (k := 0) hm hI rfl (by simp)]
    exact toNat_digits_append (by omega) (by omega)
  · rw [State.fetchWord_of_writeFrom (k := 1) hm hI hpc (by simp)]
    exact toNat_digits_append (by omega) (by omega)

/-- Settles O45: what the two instructions store are consecutive writes, and a fetch reads two of them. -/
theorem storeIsSeenByNextFetch : Obligations.StoreIsSeenByNextFetch := fun _ _ _ =>
  ⟨fun hI h _ => fetchWord_after_ldIVx hI h, fetchWord_after_ldBVx⟩

end Sys2Proof.Machine
end

section
/-! PROOFS. The decoder and the encoder undo each other (30_encoding R52 to R59): the decoder class by class, what well-formed
means for the rows of priority 2, and the two round trips. -/

namespace Sys2Proof

/-! ### The decoder by class -/

theorem decodeWord_of_class0 {w : Word} (h : opClass w = 0x0) : decodeWord w = decodeClass0 w := by simp [decodeWord, h]

theorem decodeWord_of_class8 {w : Word} (h : opClass w = 0x8) : decodeWord w = decodeClass8 w := by simp [decodeWord, h]

theorem decodeWord_of_classE {w : Word} (h : opClass w = 0xE) : decodeWord w = decodeClassE w := by simp [decodeWord, h]

theorem decodeWord_of_classF {w : Word} (h : opClass w = 0xF) : decodeWord w = decodeClassF w := by simp [decodeWord, h]

theorem packA_injective (c : Nibble) : Function.Injective (packA c) := fun _ _ h => by simpa using congrArg fieldNNN h

theorem decodeClass0_of_not_listed {nnn : Addr12} (hcls : nnn ≠ 0x0E0) (hret : nnn ≠ 0x0EE) :
    decodeClass0 (packA 0x0 nnn) = .sys nnn := by
  have hclsWord : packA 0x0 nnn ≠ 0x00E0 := (packA_injective 0x0).ne hcls
  have hretWord : packA 0x0 nnn ≠ 0x00EE := (packA_injective 0x0).ne hret
  rw [decodeClass0, if_neg hclsWord, if_neg hretWord, fieldNNN_packA]

theorem decodeClass8_of_not_listed {w : Word} (h : fieldN w ∉ Instr.listed8) :
    decodeClass8 w = .unlisted8 (fieldX w) (fieldY w) (fieldN w) := by
  simp only [Instr.listed8, List.mem_cons, List.not_mem_nil, not_or, ← BitVec.toNat_inj, BitVec.ofNat_eq_ofNat,
    BitVec.reduceToNat] at h
  simp [decodeClass8, h]

theorem decodeClassE_of_not_listed {w : Word} (h : fieldNN w ∉ Instr.listedE) :
    decodeClassE w = .unlistedE (fieldX w) (fieldNN w) := by
  simp only [Instr.listedE, List.mem_cons, List.not_mem_nil, not_or, ← BitVec.toNat_inj, BitVec.ofNat_eq_ofNat,
    BitVec.reduceToNat] at h
  simp [decodeClassE, h]

theorem decodeClassF_of_not_listed {w : Word} (h : fieldNN w ∉ Instr.listedF) :
    decodeClassF w = .unlistedF (fieldX w) (fieldNN w) := by
  simp only [Instr.listedF, List.mem_cons, List.not_mem_nil, not_or, ← BitVec.toNat_inj, BitVec.ofNat_eq_ofNat,
    BitVec.reduceToNat] at h
  simp [decodeClassF, h]

/-! ### Well-formedness of the rows of priority 2 -/

@[simp] theorem wellFormed_sys (nnn : Addr12) : (Instr.sys nnn).wellFormed = true ↔ nnn ≠ 0x0E0 ∧ nnn ≠ 0x0EE := by
  simp [Instr.wellFormed]

@[simp] theorem wellFormed_unlisted8 (x y : Reg) (n : Nibble) :
    (Instr.unlisted8 x y n).wellFormed = true ↔ n ∉ Instr.listed8 := by simp [Instr.wellFormed]

@[simp] theorem wellFormed_unlistedE (x : Reg) (nn : Byte) :
    (Instr.unlistedE x nn).wellFormed = true ↔ nn ∉ Instr.listedE := by simp [Instr.wellFormed]

@[simp] theorem wellFormed_unlistedF (x : Reg) (nn : Byte) :
    (Instr.unlistedF x nn).wellFormed = true ↔ nn ∉ Instr.listedF := by simp [Instr.wellFormed]

/-! ### Decoding an encoded instruction -/

/-- A row of priority 1 needs its class and its selector alone; a row of priority 2 needs that its selector is not listed. -/
theorem decodeWord_encode {i : Instr} (h : i.wellFormed = true) : decodeWord (encode i) = i := by
  cases i with
  | sys nnn =>
    obtain ⟨hcls, hret⟩ := (wellFormed_sys nnn).1 h
    rw [encode, decodeWord_of_class0 (opClass_packA _ _), decodeClass0_of_not_listed hcls hret]
  | unlisted8 x y n =>
    rw [wellFormed_unlisted8] at h
    rw [encode, decodeWord_of_class8 (opClass_packXYN _ _ _ _), decodeClass8_of_not_listed (by simpa using h),
      fieldX_packXYN, fieldY_packXYN, fieldN_packXYN]
  | unlistedE x nn =>
    rw [wellFormed_unlistedE] at h
    rw [encode, decodeWord_of_classE (opClass_packXNN _ _ _), decodeClassE_of_not_listed (by simpa using h),
      fieldX_packXNN, fieldNN_packXNN]
  | unlistedF x nn =>
    rw [wellFormed_unlistedF] at h
    rw [encode, decodeWord_of_classF (opClass_packXNN _ _ _), decodeClassF_of_not_listed (by simpa using h),
      fieldX_packXNN, fieldNN_packXNN]
  | cls | ret => rfl
  | ldReg | orReg | andReg | xorReg | addReg | sub | shr | subn | shl =>
    simp [encode, decodeWord_of_class8, decodeClass8]
  | skp | sknp => simp [encode, decodeWord_of_classE, decodeClassE]
  | ldVxDT | ldVxK | ldDTVx | ldSTVx | addIVx | ldFVx | ldBVx | ldIVx | ldVxI =>
    simp [encode, decodeWord_of_classF, decodeClassF]
  | _ => simp [encode, decodeWord]

/-- Settles O1: the fields of a packed word are the operands it was packed from. -/
theorem encodeThenDecode : Obligations.EncodeThenDecode := fun _ => decodeWord_encode

/-! ### Encoding a decoded word -/

/-- The instruction is a word's own: well formed, with that word. -/
def Instr.StandsFor (i : Instr) (w : Word) : Prop := i.wellFormed = true ∧ encode i = w

theorem packA_of_fields {w : Word} {c : Nibble} (hc : opClass w = c) : packA c (fieldNNN w) = w := by
  rw [← hc, packA_fields]

theorem packXNN_of_fields {w : Word} {c : Nibble} {nn : Byte} (hc : opClass w = c) (hnn : fieldNN w = nn) :
    packXNN c (fieldX w) nn = w := by
  rw [← hc, ← hnn, packXNN_fields]

theorem packXYN_of_fields {w : Word} {c n : Nibble} (hc : opClass w = c) (hn : fieldN w = n) :
    packXYN c (fieldX w) (fieldY w) n = w := by
  rw [← hc, ← hn, packXYN_fields]

theorem decodeClass0_standsFor {w : Word} (hc : opClass w = 0x0) : (decodeClass0 w).StandsFor w := by
  unfold decodeClass0
  split_ifs with hcls hret
  · exact ⟨rfl, hcls.symm⟩
  · exact ⟨rfl, hret.symm⟩
  · have hne : ∀ a : Addr12, w ≠ packA 0x0 a → fieldNNN w ≠ a := fun a hw ha => hw (ha ▸ (packA_of_fields hc).symm)
    exact ⟨(wellFormed_sys _).2 ⟨hne 0x0E0 hcls, hne 0x0EE hret⟩, packA_of_fields hc⟩

theorem decodeClass8_standsFor {w : Word} (hc : opClass w = 0x8) : (decodeClass8 w).StandsFor w := by
  by_cases hn : fieldN w ∈ Instr.listed8
  · simp only [Instr.listed8, List.mem_cons, List.not_mem_nil, or_false] at hn
    rcases hn with h | h | h | h | h | h | h | h | h <;> rw [decodeClass8, h] <;> exact ⟨rfl, packXYN_of_fields hc h⟩
  · rw [decodeClass8_of_not_listed hn]
    exact ⟨(wellFormed_unlisted8 _ _ _).2 hn, packXYN_of_fields hc rfl⟩

theorem decodeClassE_standsFor {w : Word} (hc : opClass w = 0xE) : (decodeClassE w).StandsFor w := by
  by_cases hnn : fieldNN w ∈ Instr.listedE
  · simp only [Instr.listedE, List.mem_cons, List.not_mem_nil, or_false] at hnn
    rcases hnn with h | h <;> rw [decodeClassE, h] <;> exact ⟨rfl, packXNN_of_fields hc h⟩
  · rw [decodeClassE_of_not_listed hnn]
    exact ⟨(wellFormed_unlistedE _ _).2 hnn, packXNN_of_fields hc rfl⟩

theorem decodeClassF_standsFor {w : Word} (hc : opClass w = 0xF) : (decodeClassF w).StandsFor w := by
  by_cases hnn : fieldNN w ∈ Instr.listedF
  · simp only [Instr.listedF, List.mem_cons, List.not_mem_nil, or_false] at hnn
    rcases hnn with h | h | h | h | h | h | h | h | h <;> rw [decodeClassF, h] <;> exact ⟨rfl, packXNN_of_fields hc h⟩
  · rw [decodeClassF_of_not_listed hnn]
    exact ⟨(wellFormed_unlistedF _ _).2 hnn, packXNN_of_fields hc rfl⟩

theorem decodeWord_standsFor (w : Word) : (decodeWord w).StandsFor w := by
  have hc : ∀ c : Nibble, (opClass w).toNat = c.toNat → opClass w = c := fun _ => BitVec.eq_of_toNat_eq
  unfold decodeWord
  split
  case h_1 h => exact decodeClass0_standsFor (hc 0x0 h)
  case h_9 h => exact decodeClass8_standsFor (hc 0x8 h)
  case h_15 h => exact decodeClassE_standsFor (hc 0xE h)
  case h_16 =>
    -- omega reads the decoder's excluded classes as negations
    simp only [imp_false] at *
    have hlt := (opClass w).isLt
    exact decodeClassF_standsFor (hc 0xF (show (opClass w).toNat = 0xF by omega))
  case h_2 h | h_3 h | h_11 h | h_12 h => exact ⟨rfl, packA_of_fields (hc _ h)⟩
  case h_4 h | h_5 h | h_7 h | h_8 h | h_13 h => exact ⟨rfl, packXNN_of_fields (hc _ h) rfl⟩
  case h_6 h | h_10 h | h_14 h => exact ⟨rfl, packXYN_of_fields (hc _ h) rfl⟩

/-- Settles O2: class by class, a word is its fields packed. -/
theorem decodeThenEncode : Obligations.DecodeThenEncode := decodeWord_standsFor

/-- Settles O4, on fifteen fixed words. -/
theorem spelledWordsDecode : Obligations.SpelledWordsDecode := by
  unfold Obligations.SpelledWordsDecode
  decide

end Sys2Proof
end

section
/-! PROOFS. The decoder and the opcode map (30_encoding R59): rows of one priority share no word, and a row of priority 1 in the
space of a row of priority 2 takes only a listed selector, so that the map selects the row of the instruction decoded. -/

namespace Sys2Proof

/-! ### The rows -/

/-- Two rows demand the same of the bits that both of them fix. -/
abbrev OpcodeRow.Agree (r r' : OpcodeRow) : Prop := r.pattern &&& r'.mask = r'.pattern &&& r.mask

theorem OpcodeRow.agree_of_rowSelects {w : Word} {r r' : OpcodeRow} (h : rowSelects w r = true)
    (h' : rowSelects w r' = true) : r.Agree r' := by
  rw [rowSelects, beq_iff_eq] at h h'
  rw [OpcodeRow.Agree, ← h, ← h', BitVec.and_assoc, BitVec.and_assoc, BitVec.and_comm r.mask]

/-- No two rows of one priority share a word. -/
theorem opcodeMap_eq_of_agree :
    ∀ r ∈ opcodeMap, ∀ r' ∈ opcodeMap, r.priority = r'.priority → r.Agree r' → r = r' := by decide

theorem opcodeMap_priority : ∀ r ∈ opcodeMap, r.priority = 1 ∨ r.priority = 2 := by decide

/-- A row holds no operand, so that membership evaluates for each constructor. -/
theorem rowOf_mem_opcodeMap (i : Instr) : rowOf i ∈ opcodeMap := by
  cases i <;> exact List.elem_iff.1 rfl

theorem rowSelects_encode (i : Instr) : rowSelects (encode i) (rowOf i) = true := by
  rw [rowSelects, beq_iff_eq]
  cases i with
  | cls | ret => rfl
  | sys | jp | call | ldI | jpV0 => exact Laws.FixedBits.packA_class _ _
  | seImm | sneImm | ldImm | addImm | rnd | unlistedE | unlistedF => exact Laws.FixedBits.packXNN_class _ _ _
  | skp | sknp | ldVxDT | ldVxK | ldDTVx | ldSTVx | addIVx | ldFVx | ldBVx | ldIVx | ldVxI =>
    exact Laws.FixedBits.packXNN_selector _ _ _
  | seReg | sneReg | drw | unlisted8 => exact Laws.FixedBits.packXYN_class _ _ _ _
  | ldReg | orReg | andReg | xorReg | addReg | sub | shr | subn | shl => exact Laws.FixedBits.packXYN_selector _ _ _ _

/-! The rows of priority 1 in the space of a row of priority 2 are those of the listed selectors (R53, R55 to R57). -/

theorem opcodeMap_in_sys : ∀ r ∈ opcodeMap, r.priority = 1 → r.Agree (rowOf (.sys 0)) →
    r.mask = 0xFFFF ∧ r.pattern ∈ [packA 0x0 0x0E0, packA 0x0 0x0EE] := by decide

theorem opcodeMap_in_unlisted8 : ∀ r ∈ opcodeMap, r.priority = 1 → r.Agree (rowOf (.unlisted8 0 0 0)) →
    r.mask = 0xF00F ∧ fieldN r.pattern ∈ Instr.listed8 := by decide

theorem opcodeMap_in_unlistedE : ∀ r ∈ opcodeMap, r.priority = 1 → r.Agree (rowOf (.unlistedE 0 0)) →
    r.mask = 0xF0FF ∧ fieldNN r.pattern ∈ Instr.listedE := by decide

theorem opcodeMap_in_unlistedF : ∀ r ∈ opcodeMap, r.priority = 1 → r.Agree (rowOf (.unlistedF 0 0)) →
    r.mask = 0xF0FF ∧ fieldNN r.pattern ∈ Instr.listedF := by decide

/-- A row of priority 1 takes no word of a well-formed instruction of priority 2. -/
theorem rowSelects_encode_of_priority {i : Instr} (hwf : i.wellFormed = true) (hi : (rowOf i).priority = 2) {r : OpcodeRow}
    (hr : r ∈ opcodeMap) (hp : r.priority = 1) : rowSelects (encode i) r = false := by
  by_contra hsel
  rw [Bool.not_eq_false] at hsel
  have hagree := OpcodeRow.agree_of_rowSelects hsel (rowSelects_encode i)
  rw [rowSelects, beq_iff_eq] at hsel
  cases i with
  | sys nnn =>
    obtain ⟨hmask, hpat⟩ := opcodeMap_in_sys r hr hp hagree
    obtain ⟨hcls, hret⟩ := (wellFormed_sys nnn).1 hwf
    rw [← hsel, hmask, show (0xFFFF : Word) = BitVec.allOnes 16 from rfl, BitVec.and_allOnes, List.mem_pair] at hpat
    obtain h | h := hpat
    · exact hcls (packA_injective 0x0 h)
    · exact hret (packA_injective 0x0 h)
  | unlisted8 x y n =>
    obtain ⟨hmask, hlisted⟩ := opcodeMap_in_unlisted8 r hr hp hagree
    rw [← hsel, hmask, encode, Laws.FixedBits.packXYN_selector, fieldN_packXYN] at hlisted
    exact (wellFormed_unlisted8 x y n).1 hwf hlisted
  | unlistedE x nn =>
    obtain ⟨hmask, hlisted⟩ := opcodeMap_in_unlistedE r hr hp hagree
    rw [← hsel, hmask, encode, Laws.FixedBits.packXNN_selector, fieldNN_packXNN] at hlisted
    exact (wellFormed_unlistedE x nn).1 hwf hlisted
  | unlistedF x nn =>
    obtain ⟨hmask, hlisted⟩ := opcodeMap_in_unlistedF r hr hp hagree
    rw [← hsel, hmask, encode, Laws.FixedBits.packXNN_selector, fieldNN_packXNN] at hlisted
    exact (wellFormed_unlistedF x nn).1 hwf hlisted
  | _ => cases hi

/-- Among the rows of its own priority, a row that selects a word is the one found. -/
theorem find?_rowSelects {w : Word} {r : OpcodeRow} (hr : r ∈ opcodeMap) (hsel : rowSelects w r = true) :
    (opcodeMap.filter (·.priority == r.priority)).find? (rowSelects w) = some r := by
  have hmem : r ∈ opcodeMap.filter (·.priority == r.priority) := by simp [hr]
  obtain ⟨r', hfind⟩ := Option.isSome_iff_exists.1 (List.find?_isSome.2 ⟨r, hmem, hsel⟩)
  obtain ⟨hr', hp⟩ := List.mem_filter.1 (List.mem_of_find?_eq_some hfind)
  have hagree := OpcodeRow.agree_of_rowSelects (List.find?_some hfind) hsel
  rw [hfind, opcodeMap_eq_of_agree r' hr' r hr (beq_iff_eq.1 hp) hagree]

theorem selectRow_encode {i : Instr} (hwf : i.wellFormed = true) : selectRow (encode i) = some (rowOf i) := by
  have hfind := find?_rowSelects (rowOf_mem_opcodeMap i) (rowSelects_encode i)
  rw [selectRow, List.find?_append]
  obtain hp | hp := opcodeMap_priority _ (rowOf_mem_opcodeMap i) <;> rw [hp] at hfind
  · rw [hfind, Option.some_or]
  · have hnone : (opcodeMap.filter (·.priority == 1)).find? (rowSelects (encode i)) = none := by
      refine List.find?_eq_none.2 fun r hr => ?_
      obtain ⟨hmem, hfirst⟩ := List.mem_filter.1 hr
      simp [rowSelects_encode_of_priority hwf hp hmem (beq_iff_eq.1 hfirst)]
    rw [hnone, hfind, Option.none_or]

/-- Settles O3: the word is that of the instruction it decodes to, and the map selects that instruction's row. -/
theorem decoderFollowsOpcodeMap : Obligations.DecoderFollowsOpcodeMap := fun w => by
  obtain ⟨hwf, hw⟩ := decodeWord_standsFor w
  have hrow := selectRow_encode hwf
  rwa [hw] at hrow

end Sys2Proof
end

section
/-! PROOFS. When a fault is taken and what it leaves (40_cycle R64, R65, R68, 60_exceptions R117 to R120, R127): an instruction's
fault is the one its row of the table lists, a fetch past the end is one, and after a fault there is no step. -/

namespace Sys2Proof.Machine

variable {s : State}

theorem Frame.fault_eq {w : Touched} {t : State} (h : Frame w s t) : t.fault = s.fault := by
  obtain ⟨-, -, -, -, -, -, -, hfault, -⟩ := h
  exact hfault

theorem step_of_fault {r : FaultRecord} (h : s.fault = some r) : step s = .fault .halted := by
  simp only [step, h]

/-- Settles O10: a listed fault is what the meaning raises, and with none listed the frame keeps the fault component. -/
theorem faultsExactlyWhenListed : Obligations.FaultsExactlyWhenListed := by
  intro i s
  cases hf : expectedFault s i with
  | some f => exact ⟨_, exec_of_expectedFault_eq_some (c := f.1) (info := f.2) hf, rfl⟩
  | none =>
    obtain ⟨t, ht, hframe⟩ := exec_frame i s hf
    exact ⟨t, ht, hframe.fault_eq⟩

/-- Settles O6: the step is the fetch fault with the host's choice spent. -/
theorem fetchPastEndFaults : Obligations.FetchPastEndFaults := fun _ => step_of_fetchFault

/-- Settles O7: a step looks at the fault component before it asks which engine is next. -/
theorem haltedMachineHasNoStep : Obligations.HaltedMachineHasNoStep := fun _ _ => step_of_fault

end Sys2Proof.Machine
end

section
/-! PROOFS. Class 0, jumps and calls (41_class0_flow R73 to R77, 44_index_jump_random R97): what each leaves, in every state, and the
return that undoes a call. -/

namespace Sys2Proof.Machine

variable {s : State}

/-! ### Computed targets as numbers -/

@[simp] theorem addrWord_toNat (nnn : Addr12) : (addrWord nnn).toNat = nnn.toNat :=
  BitVec.toNat_setWidth_of_le (by decide)

@[simp] theorem byteWord_toNat (v : Byte) : (byteWord v).toNat = v.toNat := BitVec.toNat_setWidth_of_le (by decide)

/-- The indexed target is at most 0x10FE, so the sum does not wrap (R97). -/
@[simp] theorem indexedTarget_toNat (nnn : Addr12) (v : Byte) : (indexedTarget nnn v).toNat = nnn.toNat + v.toNat := by
  have hn := nnn.isLt
  have hv := v.isLt
  rw [indexedTarget, BitVec.toNat_add, addrWord_toNat, byteWord_toNat]
  omega

/-! ### The call stack's faults -/

theorem exec_call_of_full (nnn : Addr12) (h : s.sp.val = 16) :
    exec (.call nnn) s = .next (s.raiseIn (.call nnn) .stackOverflow s.pc) :=
  exec_of_expectedFault_eq_some (if_pos h)

theorem exec_ret_of_empty (h : s.sp.val = 0) : exec .ret s = .next (s.raiseIn .ret .stackUnderflow s.pc) :=
  exec_of_expectedFault_eq_some (if_pos h)

/-! ### The obligations -/

/-- Settles O20: the display is blanked and nothing but the display and the record of calls is touched. -/
theorem clsBlanksDisplay : Obligations.ClsBlanksDisplay := fun s =>
  ⟨_, rfl, Env.pixel_displayClear s.env, rfl,
    (Frame.advance _ s).setEnv ((EnvFrame.refl _ s.env).displayClear rfl rfl)⟩

/-- Settles O21: the whole meaning is the advance of pc. -/
theorem sysDoesNothing : Obligations.SysDoesNothing := fun _ s => ⟨_, rfl, Frame.advance _ s⟩

/-- Settles O22: pc is set to the target alone, and neither target wraps. -/
theorem jumpsSetPc : Obligations.JumpsSetPc := fun nnn s =>
  ⟨⟨_, rfl, addrWord_toNat nnn, (Frame.advance _ s).setPc rfl _⟩,
    ⟨_, rfl, indexedTarget_toNat nnn (s.getV 0), (Frame.advance _ s).setPc rfl _⟩⟩

/-- Settles O23: a push below 16 entries, the overflow at 16. -/
theorem callPushesAdvancedPc : Obligations.CallPushesAdvancedPc := by
  intro nnn s
  constructor
  · intro hlt
    exact ⟨_, exec_call_of_lt nnn hlt, addrWord_toNat nnn, rfl, rfl,
      ((Frame.advance _ s).setStack rfl _ _).setPc rfl _⟩
  · exact exec_call_of_full nnn

/-- Settles O24: a pop with an entry live, the underflow with none. -/
theorem retPopsNewestEntry : Obligations.RetPopsNewestEntry := by
  intro s
  constructor
  · intro hpos
    exact ⟨_, exec_ret_of_pos hpos, rfl, rfl, rfl, ((Frame.advance _ s).setStack rfl _ _).setPc rfl _⟩
  · exact exec_ret_of_empty

/-- Settles O25: the newest entry of the stack a CALL left is the address after it. -/
theorem retResumesAfterCall : Obligations.RetResumesAfterCall := by
  intro nnn s t v hlt hcall hsp hstack
  obtain ⟨hpush, -⟩ := callPushesAdvancedPc nnn s
  obtain ⟨t', ht', -, htsp, htstack, -⟩ := hpush hlt
  obtain rfl : t = t' := Host.Outcome.next.inj (hcall.symm.trans ht')
  have hvsp : v.sp.val = s.sp.val + 1 := by rw [hsp, htsp]
  obtain ⟨hpop, -⟩ := retPopsNewestEntry v
  obtain ⟨u, hret, hupc, husp, -⟩ := hpop (by omega)
  refine ⟨u, hret, ?_, Fin.ext (by omega)⟩
  simp [hupc, hstack, htstack, hvsp]

end Sys2Proof.Machine
end

section
/-! PROOFS. The register skips (42_skips R78 to R81): one rule for a skip made after the advance of pc, whatever its condition. -/

namespace Sys2Proof.Machine

/-- A skip after the advance, its test `c` deciding the condition `p`. -/
theorem State.advance_skipIf_pc (s : State) {c : Bool} {p : Prop} [Decidable p] (hc : c = true ↔ p) :
    (s.advance.skipIf c).pc = if p then s.pc + 4 else s.pc + 2 := by
  rw [State.skipIf_pc, State.advance_pc, pc_add_four]
  exact if_congr hc rfl rfl

theorem State.advance_skipIf_frame (s : State) (c : Bool) : Frame { pc := true } s (s.advance.skipIf c) :=
  (Frame.advance _ s).skipIf rfl c

/-- Settles O26: each of the four is a skip after the advance, on the equality or the inequality of its operands. -/
theorem registerSkips : Obligations.RegisterSkips := fun _ _ _ _ s =>
  ⟨⟨_, rfl, s.advance_skipIf_pc beq_iff_eq, s.advance_skipIf_frame _⟩,
    ⟨_, rfl, s.advance_skipIf_pc bne_iff_ne, s.advance_skipIf_frame _⟩,
    ⟨_, rfl, s.advance_skipIf_pc beq_iff_eq, s.advance_skipIf_frame _⟩,
    ⟨_, rfl, s.advance_skipIf_pc bne_iff_ne, s.advance_skipIf_frame _⟩⟩

end Sys2Proof.Machine
end

section
/-! PROOFS. Register loads and the ALU (43_alu R82 to R95): the flags as facts about exact sums and differences, what a result and its
flag and what a shift leave in V[x] and VF, and the unlisted words. -/

namespace Sys2Proof.Machine

/-! ### Results and flags as numbers -/

/-- The 8-bit sum is below an addend exactly when the exact sum is 256 or more (R89). -/
theorem carryFlag_add (a b : Byte) : carryFlag a (a + b) = if 256 ≤ a.toNat + b.toNat then 1 else 0 := by
  have ha := a.isLt
  have hb := b.isLt
  refine if_congr ?_ rfl rfl
  rw [BitVec.toNat_add]
  omega

theorem byte_toNat_sub (a b : Byte) : (a - b).toNat = (a.toNat + 256 - b.toNat) % 256 := by
  have hb := b.isLt
  rw [BitVec.toNat_sub]
  omega

/-- The 8-bit difference is above the minuend exactly when the subtrahend is (R90, R92). -/
theorem noBorrowFlag_sub (a b : Byte) : noBorrowFlag a (a - b) = if b.toNat ≤ a.toNat then 1 else 0 := by
  have ha := a.isLt
  have hb := b.isLt
  have hborrow : a.toNat < (a - b).toNat ↔ ¬b.toNat ≤ a.toNat := by
    rw [byte_toNat_sub]
    omega
  rw [noBorrowFlag, if_congr hborrow rfl rfl, ite_not]

@[simp] theorem shiftedOutRight_toNat (b : Byte) : (shiftedOutRight b).toNat = b.toNat % 2 := by
  rw [shiftedOutRight, BitVec.toNat_and]
  exact Nat.and_one_is_mod _

@[simp] theorem shiftedOutLeft_toNat (b : Byte) : (shiftedOutLeft b).toNat = b.toNat / 128 := by
  have hb := b.isLt
  rw [shiftedOutLeft, BitVec.toNat_and, BitVec.toNat_ushiftRight, Nat.shiftRight_eq_div_pow]
  refine (Nat.and_one_is_mod _).trans ?_
  omega

theorem byte_toNat_shiftRight_one (b : Byte) : (b >>> 1).toNat = b.toNat / 2 := by
  rw [BitVec.toNat_ushiftRight, Nat.shiftRight_eq_div_pow, pow_one]

theorem byte_toNat_shiftLeft_one (b : Byte) : (b <<< 1).toNat = b.toNat * 2 % 256 := by
  rw [BitVec.toNat_shiftLeft, Nat.shiftLeft_eq, pow_one]

/-! ### A register written after the advance of pc -/

variable (s : State) (x y : Reg)

theorem State.advance_setV_frame (v : Byte) : Frame { regs := [x] } s (s.advance.setV x v) :=
  (Frame.advance _ s).setV List.mem_cons_self v

theorem State.getV_setV_self (v : Byte) : (s.setV x v).getV x = v := by rw [State.getV_setV, if_pos rfl]

/-! ### A result and its flag after the advance of pc (R82) -/

theorem State.advance_setResultThenFlag_frame (v f : Byte) :
    Frame { regs := [x, 0xF] } s (s.advance.setResultThenFlag x v f) :=
  (Frame.advance _ s).setResultThenFlag List.mem_cons_self (List.mem_cons_of_mem _ List.mem_cons_self) v f

theorem State.getV_flag_setResultThenFlag (v f : Byte) : (s.setResultThenFlag x v f).getV 0xF = f := by
  rw [State.getV_setResultThenFlag, if_pos rfl]

variable {x} in
theorem State.getV_result_setResultThenFlag (hx : x ≠ 0xF) (v f : Byte) : (s.setResultThenFlag x v f).getV x = v := by
  rw [State.getV_setResultThenFlag, if_neg hx, if_pos rfl]

/-- An instruction that writes a result and then its flag leaves the flag in VF and, unless x = 0xF, the result in V[x]. -/
theorem exec_of_setResultThenFlag {i : Instr} {v f : Byte} (h : exec i s = .next (s.advance.setResultThenFlag x v f)) :
    ∃ t, exec i s = .next t ∧ t.getV 0xF = f ∧ (x ≠ 0xF → t.getV x = v) ∧ Frame { regs := [x, 0xF] } s t :=
  ⟨_, h, State.getV_flag_setResultThenFlag _ x v f, fun hx => State.getV_result_setResultThenFlag _ hx v f,
    s.advance_setResultThenFlag_frame x v f⟩

/-- `8xy7` compares with V[y] after V[x] is written, which matters only when y = x; the difference is then 0 and borrows in neither
reading (R92). -/
theorem exec_subn_eq : exec (.subn x y) s = .next (s.advance.setResultThenFlag x (s.getV y - s.getV x)
    (noBorrowFlag (s.getV y) (s.getV y - s.getV x))) := by
  suffices hflag : noBorrowFlag ((s.advance.setV x (s.getV y - s.getV x)).getV y) (s.getV y - s.getV x) =
      noBorrowFlag (s.getV y) (s.getV y - s.getV x) by
    simp only [exec, execSubn, hflag, State.setResultThenFlag]
  by_cases hyx : y = x
  · subst hyx
    simp [noBorrowFlag]
  · rw [State.getV_setV, if_neg hyx, State.getV_advance]

/-! ### The two writes of a shift -/

theorem State.advance_setShift_frame (o : ShiftOrder) (result flag : Byte → Byte) :
    Frame { regs := [x, 0xF] } s (s.advance.setShift o result flag x y) :=
  (Frame.advance _ s).setShift List.mem_cons_self (List.mem_cons_of_mem _ List.mem_cons_self) o result flag y

/-- Text order writes the result last, and computes it from the flag when V[y] is VF. -/
theorem State.getV_result_setShift_textOrder (result flag : Byte → Byte) :
    (s.setShift .textOrder result flag x y).getV x = result (if y = 0xF then flag (s.getV y) else s.getV y) := by
  simp only [State.setShift, State.getV_setV, flagReg, if_true]

variable {x} in
theorem State.getV_flag_setShift_textOrder (hx : x ≠ 0xF) (result flag : Byte → Byte) :
    (s.setShift .textOrder result flag x y).getV 0xF = flag (s.getV y) := by
  simp only [State.setShift, State.getV_setV, flagReg, if_neg hx.symm, if_true]

theorem State.setShift_snapshotFlagLast (result flag : Byte → Byte) :
    s.setShift .snapshotFlagLast result flag x y = s.setResultThenFlag x (result (s.getV y)) (flag (s.getV y)) := rfl

variable {s x y} in
/-- What a shift leaves in V[x] and VF, by which of x and y are VF: with `r` the result and `f` the flag of V[y], and `rf` the result of
that flag, which text order computes when y = 0xF (R82). -/
theorem State.setShift_toNat (o : ShiftOrder) {result flag : Byte → Byte} {r f rf : Nat}
    (hr : (result (s.getV y)).toNat = r) (hf : (flag (s.getV y)).toNat = f) (hrf : (result (flag (s.getV y))).toNat = rf) :
    (x ≠ 0xF ∧ y ≠ 0xF → ((s.setShift o result flag x y).getV x).toNat = r ∧
      ((s.setShift o result flag x y).getV 0xF).toNat = f) ∧
    (x = 0xF ∧ y ≠ 0xF → ((s.setShift o result flag x y).getV 0xF).toNat =
      match o with | .textOrder => r | .snapshotFlagLast => f) ∧
    (x ≠ 0xF ∧ y = 0xF → ((s.setShift o result flag x y).getV 0xF).toNat = f ∧
      ((s.setShift o result flag x y).getV x).toNat = match o with | .textOrder => rf | .snapshotFlagLast => r) ∧
    (x = 0xF ∧ y = 0xF → ((s.setShift o result flag x y).getV 0xF).toNat =
      match o with | .textOrder => rf | .snapshotFlagLast => f) := by
  cases o with
  | textOrder =>
    have hflag (hx : x ≠ 0xF) : ((s.setShift .textOrder result flag x y).getV 0xF).toNat = f := by
      rw [State.getV_flag_setShift_textOrder s y hx, hf]
    have hresult (hy : y ≠ 0xF) : ((s.setShift .textOrder result flag x y).getV x).toNat = r := by
      rw [State.getV_result_setShift_textOrder, if_neg hy, hr]
    have hresult_flag (hy : y = 0xF) : ((s.setShift .textOrder result flag x y).getV x).toNat = rf := by
      rw [State.getV_result_setShift_textOrder, if_pos hy, hrf]
    refine ⟨fun ⟨hx, hy⟩ => ⟨hresult hy, hflag hx⟩, ?_, fun ⟨hx, hy⟩ => ⟨hflag hx, hresult_flag hy⟩, ?_⟩
    · rintro ⟨rfl, hy⟩
      exact hresult hy
    · rintro ⟨rfl, hy⟩
      exact hresult_flag hy
  | snapshotFlagLast =>
    have hflag : ((s.setShift .snapshotFlagLast result flag x y).getV 0xF).toNat = f := by
      rw [State.setShift_snapshotFlagLast, State.getV_flag_setResultThenFlag, hf]
    have hresult (hx : x ≠ 0xF) : ((s.setShift .snapshotFlagLast result flag x y).getV x).toNat = r := by
      rw [State.setShift_snapshotFlagLast, State.getV_result_setResultThenFlag s hx, hr]
    exact ⟨fun ⟨hx, _⟩ => ⟨hresult hx, hflag⟩, fun _ => hflag, fun ⟨hx, _⟩ => ⟨hflag, hresult hx⟩, fun _ => hflag⟩

/-! ### The obligations -/

/-- Settles O27: each is one register write after the advance. -/
theorem loadsAndAddImmediate : Obligations.LoadsAndAddImmediate := by
  intro x y nn s
  refine ⟨⟨_, rfl, State.getV_setV_self _ x _, s.advance_setV_frame x _⟩, ⟨_, rfl, ?_, s.advance_setV_frame x _⟩,
    ⟨_, rfl, State.getV_setV_self _ x _, s.advance_setV_frame x _⟩⟩
  rw [State.getV_setV_self, BitVec.toNat_add]

/-- Settles O28: each writes its result and then the flag 0. -/
theorem logicClearsFlag : Obligations.LogicClearsFlag := fun x _ s =>
  ⟨exec_of_setResultThenFlag s x rfl, exec_of_setResultThenFlag s x rfl, exec_of_setResultThenFlag s x rfl⟩

/-- Settles O29: the flag, computed from the 8-bit sum, is the carry of the exact one. -/
theorem addReportsCarry : Obligations.AddReportsCarry := by
  intro x y s
  obtain ⟨t, ht, hflag, hresult, hframe⟩ := exec_of_setResultThenFlag (i := .addReg x y) s x rfl
  exact ⟨t, ht, hflag.trans (carryFlag_add _ _), fun hx => by rw [hresult hx, BitVec.toNat_add], hframe⟩

/-- Settles O30: the flag, computed from the 8-bit difference, is the comparison of the operands. -/
theorem subtractReportsNoBorrow : Obligations.SubtractReportsNoBorrow := by
  intro x y s
  constructor
  · obtain ⟨t, ht, hflag, hresult, hframe⟩ := exec_of_setResultThenFlag (i := .sub x y) s x rfl
    exact ⟨t, ht, hflag.trans (noBorrowFlag_sub _ _), fun hx => by rw [hresult hx, byte_toNat_sub], hframe⟩
  · obtain ⟨t, ht, hflag, hresult, hframe⟩ := exec_of_setResultThenFlag s x (exec_subn_eq s x y)
    exact ⟨t, ht, hflag.trans (noBorrowFlag_sub _ _), fun hx => by rw [hresult hx, byte_toNat_sub], hframe⟩

/-- Settles O31: with `b` = V[y], the result of the flag is `b % 2 / 2 = 0` to the right and `b / 128 * 2` to the left. -/
theorem shiftsFollowShiftOrder : Obligations.ShiftsFollowShiftOrder := by
  intro x y s
  have hb := (s.getV y).isLt
  constructor
  · refine ⟨_, rfl, s.advance_setShift_frame x y _ _ _, State.setShift_toNat _ (byte_toNat_shiftRight_one _)
      (shiftedOutRight_toNat _) ?_⟩
    rw [byte_toNat_shiftRight_one, shiftedOutRight_toNat]
    omega
  · refine ⟨_, rfl, s.advance_setShift_frame x y _ _ _, State.setShift_toNat _ (byte_toNat_shiftLeft_one _)
      (shiftedOutLeft_toNat _) ?_⟩
    rw [byte_toNat_shiftLeft_one, shiftedOutLeft_toNat, State.getV_advance]
    omega

/-- Settles O32: the meaning of the three spaces is one, and the parameter alone decides what it answers. -/
theorem unlistedWordsFollowParameter : Obligations.UnlistedWordsFollowParameter := by
  intro i s hi
  have hexec : exec i s = .next (s.runUnlisted i) := by
    obtain ⟨x, y, n, rfl⟩ | ⟨x, nn, rfl⟩ | ⟨x, nn, rfl⟩ := hi <;> rfl
  rw [hexec, State.runUnlisted]
  cases Config.unlistedSubop <;> rfl

end Sys2Proof.Machine
end

section
/-! PROOFS. Index and random (44_index_jump_random R96, R98; 48_index_memory R110, R111): the addresses put in I as numbers, and the
one call of RND. -/

namespace Sys2Proof.Machine

/-! ### Computed addresses as numbers -/

theorem byte_toNat_and_low_nibble (v : Byte) : (v &&& 0x0F).toNat = v.toNat % 16 := by
  rw [BitVec.toNat_and]
  exact Nat.and_two_pow_sub_one_eq_mod v.toNat 4

/-- A glyph's address is at most 0x09B, so neither the product nor the sum wraps (R111). -/
@[simp] theorem glyphAddr_toNat (v : Byte) : (glyphAddr v).toNat = 0x050 + v.toNat % 16 * 5 := by
  rw [glyphAddr, BitVec.toNat_add, BitVec.toNat_mul, byteWord_toNat, byte_toNat_and_low_nibble]
  change (0x050 + v.toNat % 16 * 5 % 65536) % 65536 = 0x050 + v.toNat % 16 * 5
  omega

/-! ### I written after the advance of pc -/

theorem State.advance_setI_frame (s : State) (v : Word) : Frame { index := true } s (s.advance.setI v) :=
  (Frame.advance _ s).setI rfl v

/-! ### The obligations -/

/-- Settles O33: each is one write of I after the advance, and only the sum with V[x] can wrap. -/
theorem indexIsLoadedAndAdded : Obligations.IndexIsLoadedAndAdded := by
  intro x nnn s
  refine ⟨⟨_, rfl, addrWord_toNat nnn, s.advance_setI_frame _⟩, ⟨_, rfl, ?_, s.advance_setI_frame _⟩,
    ⟨_, rfl, glyphAddr_toNat (s.getV x), s.advance_setI_frame _⟩⟩
  rw [State.setI_I, BitVec.toNat_add, byteWord_toNat]

/-- Settles O34: the port is asked before the mask is applied, and its answer is the one recorded. -/
theorem rndMasksPortAnswer : Obligations.RndMasksPortAnswer := fun x _ s =>
  ⟨_, s.env.randomByte.1, rfl, rfl, State.getV_setV_self _ x _,
    ((Frame.advance _ s).setEnv ((EnvFrame.refl _ s.env).randomByte rfl)).setV List.mem_cons_self _⟩

end Sys2Proof.Machine
end

section
/-! PROOFS. Sprite draw (45_draw R99 to R101): the pixels toggled are those covered, in order, and what the draw leaves. -/

namespace Sys2Proof.Machine

/-! ### The pixels toggled -/

/-- A draw whose rows lie inside memory passes the address check of `execDrw`. -/
theorem firstBad_eq_none_of_drawInRange {s : State} {y : Reg} {n : Nibble} (h : drawInRange s y n) :
    firstBad s.I (drawCount s y n) = none := (firstBad_eq_none s.I _ (drawCount_le s y n)).2 h

/-- The byte of a drawn row, read at an address that does not wrap. -/
theorem readMem_of_drawInRange {s : State} {y : Reg} {n : Nibble} (h : drawInRange s y n) {k : Nat}
    (hk : k < drawCount s y n) : s.readMem (s.I + BitVec.ofNat 16 k) = Memory.read s.mem (s.I.toNat + k) := by
  have haddr : s.I.toNat + k ≤ 0xFFFF := by
    simp only [drawCount, drawRow] at hk
    omega
  rw [State.readMem, access_toNat s.I k haddr]

/-- Inside memory the pixels toggled are those covered: clipping at row 31 loses none, since a pixel lies on the screen. -/
theorem mem_spritePixels_iff_spriteCovers {s : State} {y : Reg} {n : Nibble} (h : drawInRange s y n) (x : Reg) (p : Pixel) :
    p ∈ spritePixels s x y n ↔ spriteCovers s x y n p = true := by
  have hrow_lt := p.row.isLt
  simp only [mem_spritePixels, mem_spriteRow, spriteCovers, Bool.and_eq_true, decide_eq_true_eq]
  constructor
  · rintro ⟨k, hk, hrow, hleft, hright, hbit⟩
    rw [readMem_of_drawInRange h hk] at hbit
    have hk_eq : p.row.val - (s.getV y).toNat % 32 = k := by rw [hrow, drawRow, Nat.add_sub_cancel_left]
    simp only [drawCount, drawRow] at hk hrow
    rw [hk_eq]
    exact ⟨⟨hleft, hright, by omega, by omega⟩, hbit⟩
  · rintro ⟨⟨hleft, hright, htop, hbottom⟩, hbit⟩
    have hk : p.row.val - drawRow s y < drawCount s y n := by
      simp only [drawCount, drawRow]
      omega
    refine ⟨p.row.val - drawRow s y, hk, (Nat.add_sub_cancel' htop).symm, hleft, hright, ?_⟩
    rwa [readMem_of_drawInRange h hk]

/-! ### Their order (decision D11) -/

theorem spriteRow_pairwise_col (s : State) (x y : Reg) (k : Nat) :
    (spriteRow s x y k).Pairwise (fun p q => p.col < q.col) := by
  refine List.pairwise_lt_range.filterMap _ fun a b hab p hp q hq => ?_
  simp only [Option.ite_none_right_eq_some, pixelAt_eq_some] at hp hq
  rw [Fin.lt_def]
  omega

theorem spritePixels_pairwise_row_col (s : State) (x y : Reg) (n : Nibble) :
    (spritePixels s x y n).Pairwise (fun p q => p.row < q.row ∨ (p.row = q.row ∧ p.col < q.col)) := by
  have hrow {k : Nat} {p : Pixel} (hp : p ∈ spriteRow s x y k) : p.row.val = drawRow s y + k :=
    ((mem_spriteRow s x y k p).1 hp).1
  rw [spritePixels, List.pairwise_flatMap]
  constructor
  · intro k _
    refine (spriteRow_pairwise_col s x y k).imp_of_mem fun hp hq hcol => ?_
    exact .inr ⟨Fin.ext ((hrow hp).trans (hrow hq).symm), hcol⟩
  · refine List.pairwise_lt_range.imp fun hab p hp q hq => .inl ?_
    rw [Fin.lt_def, hrow hp, hrow hq]
    exact Nat.add_lt_add_left hab _

/-! ### What a draw leaves -/

/-- Everything a draw inside memory does, in terms of the pixels it toggles (R101). -/
theorem exec_drw_of_drawInRange {s : State} {y : Reg} {n : Nibble} (h : drawInRange s y n) (x : Reg) :
    ∃ t, exec (.drw x y n) s = .next t ∧
      (∀ p, t.env.pixel p = (s.env.pixel p ^^ decide (p ∈ spritePixels s x y n))) ∧
      t.getV 0xF = (if (spritePixels s x y n).any s.env.pixel then 1 else 0) ∧
      t.env.calls =
        ((spritePixels s x y n).map (fun p => PortCall.displayToggle p (s.env.pixel p))).reverse ++ s.env.calls ∧
      Frame { regs := [0xF], display := true, calls := true } s t := by
  obtain ⟨hcollided, hpixel, hcalls, _⟩ := Env.togglePixels_spec _ s.env (spritePixels_nodup s x y n)
  refine ⟨_, exec_drw_of_inRange (firstBad_eq_none_of_drawInRange h), hpixel, ?_, hcalls, ?_⟩
  · rw [← hcollided]
    exact State.getV_setV_self _ flagReg _
  · exact ((Frame.advance _ s).setEnv ((EnvFrame.refl _ s.env).togglePixels rfl rfl _)).setV
      (List.mem_singleton_self flagReg) _

/-- What a sprite covers depends on its coordinates, on I and on memory alone. -/
theorem spriteCovers_congr {s t : State} {x y : Reg} (hx : t.getV x = s.getV x) (hy : t.getV y = s.getV y) (hI : t.I = s.I)
    (hmem : ∀ a, Memory.read t.mem a = Memory.read s.mem a) (n : Nibble) (p : Pixel) :
    spriteCovers t x y n p = spriteCovers s x y n p := by
  simp only [spriteCovers, hx, hy, hI, hmem]

/-! ### The obligations -/

/-- Settles O35: the pixels toggled are those covered, and VF is 1 exactly when one of them answered true. -/
theorem drwFlipsSpritePixels : Obligations.DrwFlipsSpritePixels := by
  intro x y n s h
  have hcovers := mem_spritePixels_iff_spriteCovers h x
  obtain ⟨t, ht, hpixel, hflag, _, hframe⟩ := exec_drw_of_drawInRange h x
  refine ⟨t, ht, fun p => ?_, ?_, fun hoff => ?_, hframe⟩
  · simp only [hpixel, hcovers, Bool.decide_eq_true]
  · rintro ⟨p, hp, hon⟩
    rw [hflag, if_pos (List.any_eq_true.2 ⟨p, (hcovers p).2 hp, hon⟩)]
  · rw [hflag, if_neg]
    rw [List.any_eq_true]
    rintro ⟨p, hp, hon⟩
    exact Bool.false_ne_true ((hoff p ((hcovers p).1 hp)).symm.trans hon)

/-- Settles O36: the list is the one the draw runs through. -/
theorem drwTogglesInOrder : Obligations.DrwTogglesInOrder := by
  intro x y n s h
  obtain ⟨t, ht, _, _, hcalls, _⟩ := exec_drw_of_drawInRange h x
  exact ⟨t, spritePixels s x y n, ht, spritePixels_pairwise_row_col s x y n, mem_spritePixels_iff_spriteCovers h x, hcalls⟩

/-- Settles O37: the first draw changes nothing that its sprite is read from, so the second flips the same pixels back. -/
theorem drwTwiceRestoresDisplay : Obligations.DrwTwiceRestoresDisplay := by
  intro x y n s t hx hy h ht
  obtain ⟨t', ht', hfirst, _, _, hregs, hI, _, _, _, _, hmem, _⟩ := drwFlipsSpritePixels x y n s h
  obtain rfl : t' = t := Host.Outcome.next.inj (ht'.symm.trans ht)
  have hVx := hregs x (by simpa using hx)
  have hVy := hregs y (by simpa using hy)
  have hcovers := spriteCovers_congr hVx hVy (hI rfl) (fun a => hmem a (by simp)) n
  have hrange : drawInRange t' y n := by rwa [drawInRange, hVy, hI rfl]
  obtain ⟨u, hu, hsecond, hcollide, _⟩ := drwFlipsSpritePixels x y n t' hrange
  refine ⟨u, hu, fun p => ?_, ?_⟩
  · rw [hsecond, hfirst, hcovers, Bool.xor_assoc, Bool.xor_self, Bool.xor_false]
  · rintro ⟨p, hp, hoff⟩
    exact hcollide ⟨p, (hcovers p).trans hp, by rw [hfirst, hoff, hp, Bool.false_xor]⟩

end Sys2Proof.Machine
end

section
/-! PROOFS. Key skips and the key wait (46_keys R103 to R105): the key a skip asks for, what a skip leaves when that key is within
range, and the key wait's two answers. -/

namespace Sys2Proof.Machine

/-! ### Keys as numbers -/

theorem keyOf_toNat_of_le {v : Byte} (h : v.toNat ≤ 15) : (keyOf v).toNat = v.toNat := by
  rw [keyOf, BitVec.toNat_setWidth]
  exact Nat.mod_eq_of_lt (by omega)

@[simp] theorem keyByte_toNat (k : Fin 17) : (keyByte k).toNat = k.val := by
  rw [keyByte, BitVec.toNat_ofNat]
  exact Nat.mod_eq_of_lt (by omega)

/-! ### The key skips -/

/-- A call made after the advance is one made before it. -/
theorem State.advance_setEnv (s : State) (e : Env) : s.advance.setEnv e = (s.setEnv e).advance := rfl

/-- With the key within range the port is asked once, and pc moves past the next word exactly when the answer is the wanted one
(R103, R104). -/
theorem State.keySkip_spec (s : State) (i : Instr) {x : Reg} (wanted : Bool) (h : (s.getV x).toNat ≤ 15) :
    (s.keySkip i x wanted).env.calls =
      .inputIsDown (keyOf (s.getV x)) (s.env.isDown (keyOf (s.getV x))).1 :: s.env.calls ∧
    (s.keySkip i x wanted).pc = (if (s.env.isDown (keyOf (s.getV x))).1 = wanted then s.pc + 4 else s.pc + 2) ∧
    Frame { pc := true, calls := true } s (s.keySkip i x wanted) := by
  refine ⟨?_, ?_, State.keySkip_frame i wanted h rfl rfl⟩
  · rw [State.keySkip_of_le i wanted h, State.skipIf_env]
    rfl
  · rw [State.keySkip_of_le i wanted h, State.advance_setEnv, State.advance_skipIf_pc _ beq_iff_eq, State.setEnv_pc]

/-! ### The obligations -/

/-- Settles O38: the two skips ask for one key and want opposite answers. -/
theorem keySkipsFollowPortAnswer : Obligations.KeySkipsFollowPortAnswer := by
  intro x s h
  refine ⟨keyOf (s.getV x), (s.env.isDown (keyOf (s.getV x))).1, keyOf_toNat_of_le h,
    ⟨_, rfl, s.keySkip_spec (.skp x) true h⟩, ?_⟩
  obtain ⟨hcalls, hpc, hframe⟩ := s.keySkip_spec (.sknp x) false h
  refine ⟨_, rfl, hcalls, ?_, hframe⟩
  rw [hpc, ← ite_not]
  simp only [Bool.not_eq_false]

/-- Settles O39: by the first answer, the rewind undoes the advance, or V[x] is written with the second one. -/
theorem keyWaitRewindsOrReads : Obligations.KeyWaitRewindsOrReads := by
  intro x s
  obtain ⟨t, ht, hframe⟩ := exec_ldVxK_frame x s
  refine ⟨t, s.env.askKey.1, ht, hframe, ?_⟩
  split
  case isTrue hno =>
    obtain rfl := Host.Outcome.next.inj ((exec_ldVxK_of_noKey x hno).symm.trans ht)
    exact ⟨BitVec.add_sub_cancel s.pc 2, rfl, rfl⟩
  case isFalse hkey =>
    obtain rfl := Host.Outcome.next.inj ((exec_ldVxK_of_key x hkey).symm.trans ht)
    refine ⟨s.env.askKey.2.askKey.1, rfl, ?_, rfl⟩
    rw [State.getV_setV_self, keyByte_toNat]

end Sys2Proof.Machine
end

section
/-! PROOFS. Timer reads and writes (47_timer_instr R107 to R109): the one condition under which loading ST calls `audio.on()`, and
what that call and its absence leave. -/

namespace Sys2Proof.Machine

/-! ### The sound timer's load -/

/-- From silence the tone goes on; the answer left open is for a tone already on (R134). -/
theorem Env.tone_audioOn_of_off {e : Env} (h : e.tone = false) : e.audioOn.tone = true := by
  simp only [Env.audioOn, h, Bool.not_false, Bool.true_or]

/-- The whole of Fx18: ST is loaded in either case, and the environment alone depends on the condition. -/
theorem exec_ldSTVx_spec (x : Reg) (s : State) :
    ∃ t, exec (.ldSTVx x) s = .next t ∧ t.ST = s.getV x ∧ Frame { sound := true, tone := true, calls := true } s t ∧
      t.env = if s.getV x ≠ 0 ∧ s.ST = 0 then s.env.audioOn else s.env := by
  obtain ⟨t, ht, hframe⟩ := exec_ldSTVx_frame x s
  have hpos : s.getV x ≠ 0 ↔ 0 < (s.getV x).toNat := ((BitVec.toNat_pos _).trans (BitVec.pos_iff_ne_zero _)).symm
  simp only [hpos]
  split
  case isTrue hstart =>
    obtain rfl := Host.Outcome.next.inj ((exec_ldSTVx_of_start hstart).symm.trans ht)
    exact ⟨_, ht, rfl, hframe, rfl⟩
  case isFalse hquiet =>
    obtain rfl := Host.Outcome.next.inj ((exec_ldSTVx_of_not_start hquiet).symm.trans ht)
    exact ⟨_, ht, rfl, hframe, rfl⟩

/-! ### The obligation -/

/-- Settles O40: the reads and writes of DT are one write each after the advance; for ST, the call is the
only thing the condition decides. -/
theorem timerInstructions : Obligations.TimerInstructions := by
  intro x s
  obtain ⟨t, ht, hST, hframe, henv⟩ := exec_ldSTVx_spec x s
  refine ⟨⟨_, rfl, State.getV_setV_self _ x _, s.advance_setV_frame x _⟩, ⟨_, rfl, rfl, (Frame.advance _ s).setDT rfl _⟩,
    t, ht, hST, hframe, ?_⟩
  rw [henv]
  split
  case isTrue => exact ⟨rfl, Env.tone_audioOn_of_off⟩
  case isFalse => exact ⟨rfl, rfl⟩

end Sys2Proof.Machine
end

section
/-! PROOFS. BCD and block transfer (48_index_memory R112 to R114): what Fx33 and Fx55 leave is read byte by byte, and what Fx65 loads is
what memory held. -/

namespace Sys2Proof.Machine

/-! ### Reading consecutive writes -/

/-- Byte `k` of consecutive writes from `a` up is read back at `a + k`. -/
theorem Memory.read_writeFrom_getElem {m : Memory} {a k : Nat} {vs : List Byte} (h : a + vs.length ≤ 0x1000)
    (hk : k < vs.length) : Memory.read (Memory.writeFrom m a vs) (a + k) = vs[k] := by
  rw [Memory.read_writeFrom vs m a (a + k) h, dif_pos (by omega)]
  simp only [Nat.add_sub_cancel_left]

theorem bcdDigits_map_toNat (v : Byte) :
    (bcdDigits v).map BitVec.toNat = [v.toNat / 100, v.toNat / 10 % 10, v.toNat % 10] := by
  have hv := v.isLt
  have hdigit {d : Nat} (hd : d < 10) : (BitVec.ofNat 8 d).toNat = d := Nat.mod_eq_of_lt (by omega)
  simp (disch := omega) only [bcdDigits, List.map_cons, List.map_nil, hdigit]

/-! ### I after a block transfer -/

/-- I does not wrap over a block that lies inside memory. -/
theorem block_end_toNat {base : Word} {x : Reg} (h : base.toNat + x.toNat + 1 ≤ 0x1000) :
    (base + BitVec.ofNat 16 (x.toNat + 1)).toNat = base.toNat + x.toNat + 1 :=
  access_toNat base (x.toNat + 1) (by omega)

@[simp] theorem State.storeRegs_I (s : State) (n : Nat) : (s.storeRegs n).I = s.I + BitVec.ofNat 16 n := by
  rw [State.storeRegs_eq]

@[simp] theorem State.loadRegs_I (s : State) (n : Nat) : (s.loadRegs n).I = s.I + BitVec.ofNat 16 n := by
  rw [State.loadRegs_eq]

/-! ### The obligations -/

/-- Settles O41: the three digits are consecutive writes, each below 10 and so unchanged as a byte. -/
theorem bcdStoresDigits : Obligations.BcdStoresDigits := by
  intro x s hI
  obtain ⟨t, ht, hframe⟩ := exec_frame (.ldBVx x) s ((expectedFault_ldBVx_eq_none s x).2 hI)
  have hdigit (k : Nat) (hk : k < 3) : (Memory.read t.mem (s.I.toNat + k)).toNat =
      ((bcdDigits (s.getV x)).map BitVec.toNat)[k]'(by simpa using hk) := by
    rw [exec_ldBVx_mem hI ht, Memory.read_writeFrom_getElem hI hk]
    exact (List.getElem_map _).symm
  simp only [bcdDigits_map_toNat] at hdigit
  exact ⟨t, ht, hdigit 0 (by decide), hdigit 1 (by decide), hdigit 2 (by decide), hframe⟩

/-- Settles O42: the registers stored are consecutive writes from I. -/
theorem storeBlockWritesRegisters : Obligations.StoreBlockWritesRegisters := by
  intro x s hI
  have hno := (expectedFault_ldIVx_eq_none s x).2 hI
  obtain ⟨t, ht, hframe⟩ := exec_frame (.ldIVx x) s hno
  refine ⟨t, ht, fun r hr => ?_, ?_, hframe⟩
  · have hlen := s.length_regBytes (x.toNat + 1)
    rw [exec_ldIVx_mem hI ht, Memory.read_writeFrom_getElem (by omega) (by omega), State.getElem_regBytes,
      BitVec.ofNat_toNat, BitVec.setWidth_eq]
  · have hexec := exec_ldIVx_of_inRange ((rangeFault_eq_none s x.isLt).1 hno)
    obtain rfl := Host.Outcome.next.inj (hexec.symm.trans ht)
    rw [State.storeRegs_I]
    exact block_end_toNat hI

/-- Settles O43: each register up to Vx is loaded once, from a memory that the loads leave. -/
theorem loadBlockReadsRegisters : Obligations.LoadBlockReadsRegisters := by
  intro x s hI
  have hno : expectedFault s (.ldVxI x) = none := (expectedFault_ldIVx_eq_none s x).2 hI
  obtain ⟨t, ht, hframe⟩ := exec_frame (.ldVxI x) s hno
  have hexec := exec_ldVxI_of_inRange ((rangeFault_eq_none s x.isLt).1 hno)
  obtain rfl := Host.Outcome.next.inj (hexec.symm.trans ht)
  refine ⟨_, ht, fun r hr => ?_, ?_, hframe⟩
  · rw [State.loadRegs_getV s.advance _ x.isLt (.inr hI), if_pos (Nat.lt_succ_of_le hr)]
    rfl
  · rw [State.loadRegs_I]
    exact block_end_toNat hI

/-- Settles O44: the load reads, from the same I, the memory that the store left. -/
theorem storeThenLoadRoundTrip : Obligations.StoreThenLoadRoundTrip := by
  intro x s t v hI ht hmem hvI
  obtain ⟨t', ht', hstored, htI, -⟩ := storeBlockWritesRegisters x s hI
  obtain rfl := Host.Outcome.next.inj (ht'.symm.trans ht)
  obtain ⟨u, hu, hloaded, huI, -⟩ := loadBlockReadsRegisters x v (by rwa [hvI])
  refine ⟨u, hu, fun r hr => ?_, BitVec.eq_of_toNat_eq ?_⟩
  · rw [hloaded r hr, hmem, hvI, hstored r hr]
  · rw [huI, hvI, htI]

end Sys2Proof.Machine
end

section
/-! PROOFS. The Timer Tick (60_exceptions R126, R127): one tick component by component, and many ticks. -/

namespace Sys2Proof.Machine

variable {s : State}

/-! ### One tick -/

@[simp] theorem State.tick_DT_toNat (s : State) : s.tick.DT.toNat = s.DT.toNat - 1 := by
  rw [(State.tick_eq s).1]
  exact countDown_toNat s.DT

@[simp] theorem State.tick_ST (s : State) : s.tick.ST = countDown s.ST := by rw [(State.tick_eq s).1]

theorem State.tick_ST_toNat (s : State) : s.tick.ST.toNat = s.ST.toNat - 1 := by rw [State.tick_ST, countDown_toNat]

theorem State.tick_env_of_silent (h : s.tick.ST = 0) : s.tick.env = s.env.audioOff := by
  rw [(State.tick_eq s).2, if_pos (s.tick_ST ▸ h)]

theorem State.tick_env_of_sounding (h : s.tick.ST ≠ 0) : s.tick.env = s.env := by
  rw [(State.tick_eq s).2, if_neg (s.tick_ST ▸ h)]

/-- The calls and the tone after a tick, by whether the sound timer is then 0; the frame buffer stays either way. -/
theorem State.tick_env_spec (s : State) :
    (if s.tick.ST = 0 then s.tick.env.tone = false ∧ s.tick.env.calls = .audioOff :: s.env.calls
      else s.tick.env.tone = s.env.tone ∧ s.tick.env.calls = s.env.calls) ∧ s.tick.env.fb = s.env.fb := by
  by_cases h : s.tick.ST = 0
  · rw [if_pos h, State.tick_env_of_silent h]
    exact ⟨⟨rfl, rfl⟩, rfl⟩
  · rw [if_neg h, State.tick_env_of_sounding h]
    exact ⟨⟨rfl, rfl⟩, rfl⟩

/-! ### Many ticks -/

theorem State.tick_iterate_DT_toNat (n : Nat) (s : State) : (State.tick^[n] s).DT.toNat = s.DT.toNat - n := by
  induction n with
  | zero => rfl
  | succ n ih => rw [Function.iterate_succ_apply', State.tick_DT_toNat, ih, Nat.sub_sub]

theorem State.tick_iterate_ST_toNat (n : Nat) (s : State) : (State.tick^[n] s).ST.toNat = s.ST.toNat - n := by
  induction n with
  | zero => rfl
  | succ n ih => rw [Function.iterate_succ_apply', State.tick_ST_toNat, ih, Nat.sub_sub]

/-! ### The obligations -/

/-- Settles O8: the step is the tick, and spending the host's choice touches none of the components named. -/
theorem tickCountsDownAndSilences : Obligations.TickCountsDownAndSilences := by
  intro s hf ha
  obtain ⟨hfb, htone, hcalls⟩ := Env.spendTurn_eq s.tick.env
  obtain ⟨hsound, hdisplay⟩ := s.tick_env_spec
  obtain ⟨htick, -⟩ := State.tick_eq s
  refine ⟨_, step_of_tick hf ha, s.tick_DT_toNat, s.tick_ST_toNat, ?_, ?_⟩
  · rwa [State.spendTurn_env, htone, hcalls]
  · rw [State.spendTurn_env, hfb, hdisplay, htick]
    exact ⟨rfl, rfl, rfl, rfl, rfl, fun _ => rfl, hf, rfl⟩

/-- Settles O9: the last of the ticks finds the sound timer at most 1 and silences the tone. -/
theorem ticksCountToZero : Obligations.TicksCountToZero := by
  refine fun n s => ⟨s.tick_iterate_DT_toNat n, s.tick_iterate_ST_toNat n, fun ⟨hn, hST⟩ => ?_⟩
  obtain ⟨k, rfl⟩ := Nat.exists_eq_add_one_of_ne_zero hn.ne'
  have hzero := s.tick_iterate_ST_toNat (k + 1)
  rw [Nat.sub_eq_zero_of_le hST, Function.iterate_succ_apply'] at hzero
  rw [Function.iterate_succ_apply', State.tick_env_of_silent (BitVec.eq_of_toNat_eq hzero)]
  rfl

end Sys2Proof.Machine
end

section
/-! PROOFS. The trace port (60_exceptions R129, R136): the calls an instruction or a tick adds to the record are of other ports. -/

namespace Sys2Proof.Machine

variable {s t : State}

/-- The calls recorded in `t` are those of `s` and newer ones, none of them of the trace port. -/
def State.AddsNoTrace (s t : State) : Prop := ∃ cs, t.env.calls = cs ++ s.env.calls ∧ PortCall.trace ∉ cs

theorem State.AddsNoTrace.traceUnused (h : s.AddsNoTrace t) (hs : s.TraceUnused) : t.TraceUnused := by
  obtain ⟨cs, hcalls, hcs⟩ := h
  simp [State.TraceUnused, hcalls, hcs, hs]

theorem State.AddsNoTrace.of_eq (h : t.env.calls = s.env.calls) : s.AddsNoTrace t := ⟨[], h, List.not_mem_nil⟩

theorem State.AddsNoTrace.of_cons {c : PortCall} (h : t.env.calls = c :: s.env.calls) (hc : PortCall.trace ≠ c) :
    s.AddsNoTrace t := ⟨[c], h, by simpa using hc⟩

theorem Frame.calls_eq {w : Touched} (h : Frame w s t) (hw : w.calls = false) : t.env.calls = s.env.calls := by
  obtain ⟨-, -, -, -, -, -, -, -, -, -, hcalls, -⟩ := h
  exact (hcalls hw).1

theorem State.keySkip_addsNoTrace (i : Instr) {x : Reg} (wanted : Bool) (h : (s.getV x).toNat ≤ 15) :
    s.AddsNoTrace (s.keySkip i x wanted) := .of_cons (s.keySkip_spec i wanted h).1 nofun

theorem exec_ldVxK_addsNoTrace {x : Reg} (h : exec (.ldVxK x) s = .next t) : s.AddsNoTrace t := by
  obtain ⟨u, k1, hu, -, hanswer⟩ := keyWaitRewindsOrReads x s
  obtain rfl := Host.Outcome.next.inj (hu.symm.trans h)
  split at hanswer
  · obtain ⟨-, -, hcalls⟩ := hanswer
    exact .of_cons hcalls nofun
  · obtain ⟨k2, -, -, hcalls⟩ := hanswer
    exact ⟨[.inputCurrentKey k2, .inputCurrentKey k1], hcalls, by simp⟩

theorem exec_ldSTVx_addsNoTrace {x : Reg} (h : exec (.ldSTVx x) s = .next t) : s.AddsNoTrace t := by
  obtain ⟨u, hu, -, -, henv⟩ := exec_ldSTVx_spec x s
  obtain rfl := Host.Outcome.next.inj (hu.symm.trans h)
  split at henv
  · exact .of_cons (congrArg Env.calls henv) nofun
  · exact .of_eq (congrArg Env.calls henv)

theorem exec_drw_addsNoTrace {x y : Reg} {n : Nibble} (hin : drawInRange s y n) (h : exec (.drw x y n) s = .next t) :
    s.AddsNoTrace t := by
  obtain ⟨u, hu, -, -, hcalls, -⟩ := exec_drw_of_drawInRange hin x
  obtain rfl := Host.Outcome.next.inj (hu.symm.trans h)
  exact ⟨_, hcalls, by simp⟩

/-- An instruction that takes no fault calls no trace port: most rows call none at all, the others one the tables name (R129). -/
theorem exec_addsNoTrace {i : Instr} (hno : expectedFault s i = none) (h : exec i s = .next t) : s.AddsNoTrace t := by
  by_cases hw : (touched s i).calls = false
  · obtain ⟨u, hu, hframe⟩ := exec_frame i s hno
    obtain rfl := Host.Outcome.next.inj (hu.symm.trans h)
    exact .of_eq (hframe.calls_eq hw)
  · cases i <;> simp only [touched, not_true_eq_false] at hw
    case cls | rnd => cases h; exact .of_cons rfl nofun
    case skp | sknp => cases h; exact State.keySkip_addsNoTrace _ _ (by simpa [expectedFault] using hno)
    case drw x y n =>
      have hok := (rangeFault_eq_none s (drawCount_le s y n)).1 hno
      exact exec_drw_addsNoTrace ((firstBad_eq_none s.I _ (drawCount_le s y n)).1 hok) h
    case ldVxK => exact exec_ldVxK_addsNoTrace h
    case ldSTVx => exact exec_ldSTVx_addsNoTrace h

theorem State.tick_addsNoTrace (s : State) : s.AddsNoTrace s.tick := by
  obtain ⟨hsound, -⟩ := s.tick_env_spec
  split at hsound
  · exact .of_cons hsound.2 nofun
  · exact .of_eq hsound.2

theorem exec_keeps_TraceUnused {i : Instr} (hs : s.TraceUnused) (h : exec i s = .next t) : t.TraceUnused := by
  cases hf : expectedFault s i with
  | some f =>
    rw [exec_of_expectedFault_eq_some (c := f.1) (info := f.2) hf] at h
    cases h
    exact hs
  | none => exact (exec_addsNoTrace hf h).traceUnused hs

/-- Spending the host's choice makes no call. -/
theorem State.TraceUnused.spendTurn (h : s.TraceUnused) : s.spendTurn.TraceUnused := by
  obtain ⟨-, -, hcalls⟩ := Env.spendTurn_eq s.env
  rwa [State.TraceUnused, State.spendTurn_env, hcalls]

/-- Settles O15: an instruction without a fault and a tick add calls of other ports, and a fault adds none. -/
theorem tracePortIsNeverCalled : Obligations.TracePortIsNeverCalled := by
  intro s t hs h
  obtain ⟨-, ⟨-, -, rfl⟩ | ⟨-, -, u, hu, rfl⟩ | ⟨-, rfl⟩⟩ := step_cases h
  · exact State.TraceUnused.spendTurn (s := s.raiseFault .fetchOutOfRange none s.pc) hs
  · exact (exec_keeps_TraceUnused hs hu).spendTurn
  · exact (s.tick_addsNoTrace.traceUnused hs).spendTurn

end Sys2Proof.Machine
end

section
/-! PROOFS. Parked states and the host's own operations (70_reset_and_hazards R141, R144, R146). -/

namespace Sys2Proof.Machine

variable {s t : State}

/-! ### Parked states -/

/-- Being parked depends on the fault, pc and memory alone. -/
theorem State.Parked.of_eq (h : s.Parked) (hfault : t.fault = s.fault) (hpc : t.pc = s.pc) (hmem : t.mem = s.mem) :
    t.Parked := by
  simpa only [State.Parked, State.fetchWord, State.readMem, hfault, hpc, hmem] using h

/-- An address inside memory is its own low 12 bits. -/
theorem addrWord_setWidth {pc : Word} (h : pc.toNat ≤ 0x0FFF) : addrWord (pc.setWidth 12) = pc := by
  apply BitVec.eq_of_toNat_eq
  rw [addrWord_toNat, BitVec.toNat_setWidth]
  exact Nat.mod_eq_of_lt (by omega)

/-- The instruction of a parked machine is the jump that puts pc back where it is (R76). -/
theorem exec_of_parked (h : s.Parked) : exec (decodeWord s.fetchWord) s = .next s := by
  obtain ⟨-, hp, hword⟩ := h
  have hjump : decodeWord (packA 0x1 (s.pc.setWidth 12)) = .jp (s.pc.setWidth 12) :=
    decodeWord_encode (i := .jp (s.pc.setWidth 12)) rfl
  rw [hword, hjump]
  exact congrArg (fun target => Host.Outcome.next (s.setPc target)) (addrWord_setWidth (by omega))

/-- Settles O46: the cycle's jump changes nothing, and a tick leaves the fault, pc and memory. -/
theorem parkedStaysParked : Obligations.ParkedStaysParked := by
  intro s hs
  obtain ⟨hf, hp, -⟩ := id hs
  refine ⟨fun ha => ?_, fun ha => ⟨_, step_of_tick hf ha, ?_, ?_⟩⟩
  · rw [step_of_cycle hf ha hp, exec_of_parked hs]
    rfl
  · rw [(State.tick_eq s).1]
    exact hs.of_eq rfl rfl rfl
  · rw [(State.tick_eq s).1]
    rfl

/-! ### Load and re-initialization -/

/-- Settles O18: the image is consecutive writes from 0x200, and what fits ends at the end of memory. -/
theorem loadProgramCopiesOrRefuses : Obligations.LoadProgramCopiesOrRefuses := by
  refine fun s image => ⟨fun hfits => ?_, fun hlong => if_neg (Nat.not_le.2 hlong)⟩
  have hin : 0x200 + image.length ≤ 0x1000 := by omega
  refine ⟨_, if_pos hfits, fun k hk => Memory.read_writeFrom_getElem hin hk, fun a ha => ?_, rfl⟩
  rw [Memory.read_writeFrom image s.mem 0x200 a hin, dif_neg (by omega)]

/-- Settles O19: of the state before, only the counter of free values and the schedule are kept. -/
theorem reinitRestoresEveryComponent : Obligations.ReinitRestoresEveryComponent := fun _ =>
  ⟨_, rfl, fun p => FrameBuffer.blank_get _ _ p.row.isLt p.col.isLt, rfl⟩

end Sys2Proof.Machine
end
